-- ==== Sys2Proof/Word.lean ====
section
/-! DEFINITION. The two word sizes of the machine (00_scope.md R6): the 8-bit byte and the 16-bit
register, address or immediate. Arithmetic on them is `BitVec` arithmetic, which is modulo 2^N as R9 asks. -/

namespace Sys2Proof

/-- The byte of R6: data words, registers, memory locations, port numbers. -/
abbrev Byte := BitVec 8

/-- A 16-bit quantity of R6: memory addresses, PC, SP, register pairs, 16-bit immediates. -/
abbrev Word := BitVec 16

end Sys2Proof
end

