-- ==== Sys2Proof/Config.lean ====
section
/-! DEFINITION. What an implementation or a platform fixes (00_scope.md R7): the variant, the memory map, the content of
ROM, the entry addresses; and the FREE VALUES the spec leaves open, as constants without a body, so that no proof can see
what they are. `Platform` is plain data and stands in `State`: both variants and every memory map are covered by the
statements about every state. -/

namespace Sys2Proof

/-- The model parameter `variant` of R3: which of the two parts. -/
inductive Variant where
  | v8085A
  | v8080A
deriving DecidableEq, Repr

/-- What stands at a memory address (20_memory.md R58). -/
inductive MemKind where
  /-- read-write memory -/
  | ram
  /-- read-only memory: content fixed by the platform, writes dropped (R54) -/
  | rom
  /-- nothing answers: a read is a draw, a write is dropped (R53, R54) -/
  | absent
  /-- a memory-mapped device: a read is a draw, a write an output event (R53, R54) -/
  | device
deriving DecidableEq, Repr

/-- A run of addresses `base`, ..., `base + size - 1` of one kind. -/
structure Region where
  base : Nat
  size : Nat
  kind : MemKind
deriving DecidableEq, Repr

/-- The parameters of R7 that a platform fixes for good. `memMap` gives an address the kind of the first region that holds
it, and `ram` to an address in no region (D5); `rom` lists the bytes of ROM (an unlisted ROM byte is 00H, log 12). -/
structure Platform where
  variant : Variant
  memMap : List Region
  rom : List (Nat × Byte)
  resetPc : Word
  vecTrap : Word
  vecRst55 : Word
  vecRst65 : Word
  vecRst75 : Word
deriving DecidableEq, Repr

/-- The defaults of R7: RAM everywhere, RESET_PC 0000H and the four entry addresses of 60_exceptions.md R241
(general knowledge in the spec itself: PRESUMED, logs 4, 5), for the given part. -/
def Platform.standard (v : Variant) : Platform where
  variant := v
  memMap := []
  rom := []
  resetPc := 0x0000#16
  vecTrap := 0x0024#16
  vecRst55 := 0x002C#16
  vecRst65 := 0x0034#16
  vecRst75 := 0x003C#16

/-- FREE: the byte a port gives to an `IN` for which the input list holds no answer (20_memory.md R52); the arguments are
the number of the draw and the port. Log 11. -/
opaque Config.ioByte : Nat → Byte → Byte

/-- FREE: the byte a read of an `absent` or `device` location delivers where the input list holds no answer
(20_memory.md R53); the arguments are the number of the draw and the address. Log 12. -/
opaque Config.busByte : Nat → Word → Byte

/-- FREE: the level of the SID line at a `RIM` for which the input list holds no sample (10_state.md R35). Log 10. -/
opaque Config.sidLevel : Nat → Bool

/-- FREE: `FlagByteX`, the bits 5, 3 and 1 of the flag byte that one `PUSH PSW` stores (44_stack_io_control.md R202);
bit 2 of the draw goes to bit 5, bit 1 to bit 3, bit 0 to bit 1. Log 13. -/
opaque Config.flagByteX : Nat → BitVec 3

/-- FREE: the bit a `RIM` directly after an `EI` loads into bit 3 of A (44_stack_io_control.md R213, D9). Log 14. -/
opaque Config.rimIeBit : Nat → Bool

/-- FREE: an 8-bit register after a reset event (70_reset_and_hazards.md R273); the arguments are the number of the reset
event and the register (0 to 6 for B, C, D, E, H, L, A). Log 24. -/
opaque Config.resetByte : Nat → Nat → Byte

/-- FREE: SP after a reset event (R273). Log 24. -/
opaque Config.resetSp : Nat → Word

/-- FREE: a one-bit register after a reset event (R273): 0 to 4 for Z, S, P, CY, AC, and 5 for IEtrap. Log 24. -/
opaque Config.resetBit : Nat → Nat → Bool

/-- FREE: a byte of RAM that nothing has written since the reset event of the given number, at the given address
(R273, 20_memory.md R53). Log 24. -/
opaque Config.ramByte : Nat → Nat → Byte

end Sys2Proof
end

