-- ==== Sys2Proof/Syntax.lean ====
section
/-! DEFINITION. The instructions of spec/opcode_table.json, one constructor per row (30_encoding.md R79, R87), and their
operand types. The operand restrictions of the source ("Register pair rp = SP may not be specified" under PUSH and POP,
"only register pairs rp = B ... or rp = D" under LDAX and STAX: 70_reset_and_hazards.md R279, R280) are types of their own,
so that an operand no encoding can name cannot be built. -/

namespace Sys2Proof

/-- The seven 8-bit registers (10_state.md R21). Code 110 is not a register: it selects memory and has rows of its own
(30_encoding.md R73). -/
inductive Reg where
  | b | c | d | e | h | l | a
deriving DecidableEq, Repr

/-- The register pairs of `LXI`, `INX`, `DCX`, `DAD` (10_state.md R22): B-C, D-E, H-L and SP. -/
inductive Pair where
  | bc | de | hl | sp
deriving DecidableEq, Repr

/-- The pairs `PUSH rp` and `POP rp` take (44_stack_io_control.md R201, R203); PSW has rows of its own. -/
inductive StackPair where
  | bc | de | hl
deriving DecidableEq, Repr

/-- The pairs `LDAX` and `STAX` take (30_encoding.md R86). -/
inductive IndexPair where
  | bc | de
deriving DecidableEq, Repr

/-- The eight conditions of 43_branch.md R180, in the order of their codes. -/
inductive Cond where
  | nz | z | nc | c | po | pe | p | m
deriving DecidableEq, Repr

/-- The instructions, in the order of spec/opcode_table.json. `addr` and 16-bit `data` are byte 3 :: byte 2 (30_encoding.md
R76); `n` is the field NNN of `RST`. The last ten are the first bytes the source gives no instruction (R80). -/
inductive Instr where
  /-- `MOV r1,r2`, R101 -/
  | movRR (r1 : Reg) (r2 : Reg)
  /-- `MOV r,M`, R102 -/
  | movRM (r : Reg)
  /-- `MOV M,r`, R103 -/
  | movMR (r : Reg)
  /-- `MVI r,data`, R104 -/
  | mviR (r : Reg) (data : Byte)
  /-- `MVI M,data`, R105 -/
  | mviM (data : Byte)
  /-- `LXI rp,data16`, R106 -/
  | lxi (rp : Pair) (data : Word)
  /-- `LDA addr`, R107 -/
  | lda (addr : Word)
  /-- `STA addr`, R108 -/
  | sta (addr : Word)
  /-- `LHLD addr`, R109 -/
  | lhld (addr : Word)
  /-- `SHLD addr`, R110 -/
  | shld (addr : Word)
  /-- `LDAX rp`, R111 -/
  | ldax (rp : IndexPair)
  /-- `STAX rp`, R112 -/
  | stax (rp : IndexPair)
  /-- `XCHG`, R113 -/
  | xchg
  /-- `ADD r`, R121 -/
  | addR (r : Reg)
  /-- `ADD M`, R122 -/
  | addM
  /-- `ADI data`, R123 -/
  | adi (data : Byte)
  /-- `ADC r`, R124 -/
  | adcR (r : Reg)
  /-- `ADC M`, R125 -/
  | adcM
  /-- `ACI data`, R126 -/
  | aci (data : Byte)
  /-- `SUB r`, R127 -/
  | subR (r : Reg)
  /-- `SUB M`, R128 -/
  | subM
  /-- `SUI data`, R129 -/
  | sui (data : Byte)
  /-- `SBB r`, R130 -/
  | sbbR (r : Reg)
  /-- `SBB M`, R131 -/
  | sbbM
  /-- `SBI data`, R132 -/
  | sbi (data : Byte)
  /-- `INR r`, R133 -/
  | inrR (r : Reg)
  /-- `INR M`, R134 -/
  | inrM
  /-- `DCR r`, R135 -/
  | dcrR (r : Reg)
  /-- `DCR M`, R136 -/
  | dcrM
  /-- `INX rp`, R137 -/
  | inx (rp : Pair)
  /-- `DCX rp`, R138 -/
  | dcx (rp : Pair)
  /-- `DAD rp`, R139 -/
  | dad (rp : Pair)
  /-- `DAA`, R140 -/
  | daa
  /-- `ANA r`, R152 -/
  | anaR (r : Reg)
  /-- `ANA M`, R153 -/
  | anaM
  /-- `ANI data`, R154 -/
  | ani (data : Byte)
  /-- `XRA r`, R155 -/
  | xraR (r : Reg)
  /-- `XRA M`, R156 -/
  | xraM
  /-- `XRI data`, R157 -/
  | xri (data : Byte)
  /-- `ORA r`, R158 -/
  | oraR (r : Reg)
  /-- `ORA M`, R159 -/
  | oraM
  /-- `ORI data`, R160 -/
  | ori (data : Byte)
  /-- `CMP r`, R161 -/
  | cmpR (r : Reg)
  /-- `CMP M`, R162 -/
  | cmpM
  /-- `CPI data`, R163 -/
  | cpi (data : Byte)
  /-- `RLC`, R164 -/
  | rlc
  /-- `RRC`, R165 -/
  | rrc
  /-- `RAL`, R166 -/
  | ral
  /-- `RAR`, R167 -/
  | rar
  /-- `CMA`, R168 -/
  | cma
  /-- `CMC`, R169 -/
  | cmc
  /-- `STC`, R170 -/
  | stc
  /-- `JMP addr`, R182 -/
  | jmp (addr : Word)
  /-- `JNZ addr`, R183 -/
  | jnz (addr : Word)
  /-- `JZ addr`, R183 -/
  | jz (addr : Word)
  /-- `JNC addr`, R183 -/
  | jnc (addr : Word)
  /-- `JC addr`, R183 -/
  | jc (addr : Word)
  /-- `JPO addr`, R183 -/
  | jpo (addr : Word)
  /-- `JPE addr`, R183 -/
  | jpe (addr : Word)
  /-- `JP addr`, R183 -/
  | jp (addr : Word)
  /-- `JM addr`, R183 -/
  | jm (addr : Word)
  /-- `CALL addr`, R184 -/
  | call (addr : Word)
  /-- `CNZ addr`, R185 -/
  | cnz (addr : Word)
  /-- `CZ addr`, R185 -/
  | cz (addr : Word)
  /-- `CNC addr`, R185 -/
  | cnc (addr : Word)
  /-- `CC addr`, R185 -/
  | cc (addr : Word)
  /-- `CPO addr`, R185 -/
  | cpo (addr : Word)
  /-- `CPE addr`, R185 -/
  | cpe (addr : Word)
  /-- `CP addr`, R185 -/
  | cp (addr : Word)
  /-- `CM addr`, R185 -/
  | cm (addr : Word)
  /-- `RET`, R186 -/
  | ret
  /-- `RNZ`, R187 -/
  | rnz
  /-- `RZ`, R187 -/
  | rz
  /-- `RNC`, R187 -/
  | rnc
  /-- `RC`, R187 -/
  | rc
  /-- `RPO`, R187 -/
  | rpo
  /-- `RPE`, R187 -/
  | rpe
  /-- `RP`, R187 -/
  | rp
  /-- `RM`, R187 -/
  | rm
  /-- `RST n`, R188 -/
  | rst (n : BitVec 3)
  /-- `PCHL`, R189 -/
  | pchl
  /-- `PUSH rp`, R201 -/
  | push (rp : StackPair)
  /-- `PUSH PSW`, R202 -/
  | pushPsw
  /-- `POP rp`, R203 -/
  | pop (rp : StackPair)
  /-- `POP PSW`, R204 -/
  | popPsw
  /-- `XTHL`, R205 -/
  | xthl
  /-- `SPHL`, R206 -/
  | sphl
  /-- `IN port`, R207 -/
  | inPort (port : Byte)
  /-- `OUT port`, R208 -/
  | outPort (port : Byte)
  /-- `EI`, R209 -/
  | ei
  /-- `DI`, R210 -/
  | di
  /-- `HLT`, R211 -/
  | hlt
  /-- `NOP`, R212 -/
  | nop
  /-- `RIM`, R213 -/
  | rim
  /-- `SIM`, R214 -/
  | sim
  /-- `(undefined 08H)`, R80 -/
  | undef08
  /-- `(undefined 10H)`, R80 -/
  | undef10
  /-- `(undefined 18H)`, R80 -/
  | undef18
  /-- `(undefined 28H)`, R80 -/
  | undef28
  /-- `(undefined 38H)`, R80 -/
  | undef38
  /-- `(undefined CBH)`, R80 -/
  | undefCB
  /-- `(undefined D9H)`, R80 -/
  | undefD9
  /-- `(undefined DDH)`, R80 -/
  | undefDD
  /-- `(undefined EDH)`, R80 -/
  | undefED
  /-- `(undefined FDH)`, R80 -/
  | undefFD
deriving DecidableEq, Repr

end Sys2Proof
end

