-- ==== Sys2Proof/WellFormed.lean ====
section
/-! DEFINITION. Which terms of `Instr` are instructions of which part (30_encoding.md R79 to R81). The operand types leave
no ill-formed operand; what remains to check is the spec's own: the ten first bytes with no instruction, and `RIM`, `SIM`,
which exist on the 8085A only. -/

namespace Sys2Proof

/-- `i.wellFormed v`: `i` is an instruction of the part `v` (R80, R81). -/
def Instr.wellFormed (v : Variant) : Instr → Bool
  | .movRR _ _ => true
  | .movRM _ => true
  | .movMR _ => true
  | .mviR _ _ => true
  | .mviM _ => true
  | .lxi _ _ => true
  | .lda _ => true
  | .sta _ => true
  | .lhld _ => true
  | .shld _ => true
  | .ldax _ => true
  | .stax _ => true
  | .xchg => true
  | .addR _ => true
  | .addM => true
  | .adi _ => true
  | .adcR _ => true
  | .adcM => true
  | .aci _ => true
  | .subR _ => true
  | .subM => true
  | .sui _ => true
  | .sbbR _ => true
  | .sbbM => true
  | .sbi _ => true
  | .inrR _ => true
  | .inrM => true
  | .dcrR _ => true
  | .dcrM => true
  | .inx _ => true
  | .dcx _ => true
  | .dad _ => true
  | .daa => true
  | .anaR _ => true
  | .anaM => true
  | .ani _ => true
  | .xraR _ => true
  | .xraM => true
  | .xri _ => true
  | .oraR _ => true
  | .oraM => true
  | .ori _ => true
  | .cmpR _ => true
  | .cmpM => true
  | .cpi _ => true
  | .rlc => true
  | .rrc => true
  | .ral => true
  | .rar => true
  | .cma => true
  | .cmc => true
  | .stc => true
  | .jmp _ => true
  | .jnz _ => true
  | .jz _ => true
  | .jnc _ => true
  | .jc _ => true
  | .jpo _ => true
  | .jpe _ => true
  | .jp _ => true
  | .jm _ => true
  | .call _ => true
  | .cnz _ => true
  | .cz _ => true
  | .cnc _ => true
  | .cc _ => true
  | .cpo _ => true
  | .cpe _ => true
  | .cp _ => true
  | .cm _ => true
  | .ret => true
  | .rnz => true
  | .rz => true
  | .rnc => true
  | .rc => true
  | .rpo => true
  | .rpe => true
  | .rp => true
  | .rm => true
  | .rst _ => true
  | .pchl => true
  | .push _ => true
  | .pushPsw => true
  | .pop _ => true
  | .popPsw => true
  | .xthl => true
  | .sphl => true
  | .inPort _ => true
  | .outPort _ => true
  | .ei => true
  | .di => true
  | .hlt => true
  | .nop => true
  | .rim => decide (v = .v8085A)
  | .sim => decide (v = .v8085A)
  | .undef08 => false
  | .undef10 => false
  | .undef18 => false
  | .undef28 => false
  | .undef38 => false
  | .undefCB => false
  | .undefD9 => false
  | .undefDD => false
  | .undefED => false
  | .undefFD => false

end Sys2Proof
end

