-- ==== Sys2Proof/Decode.lean ====
section
/-! DEFINITION. Reading an instruction from bytes, and writing one (30_encoding.md). `layoutOf` reads byte 1, which alone
decides the instruction and its length (R70, R78); every one of its 256 values fits exactly one row of
spec/opcode_table.json, the ten undefined values included (R87). `encode` is written from the "encoding" column of the
table, `opLength` from the formula of R78; both stand apart from `layoutOf`. -/

namespace Sys2Proof

/-! ## Bytes and words -/

/-- Bits 7 to 0 of a 16-bit quantity (00_scope.md R8). -/
def lowByte (w : Word) : Byte := w.extractLsb' 0 8

/-- Bits 15 to 8 of a 16-bit quantity (R8). -/
def highByte (w : Word) : Byte := w.extractLsb' 8 8

/-- `hi :: lo` of 00_scope.md R9. -/
def wordOf (hi lo : Byte) : Word := hi ++ lo

/-! ## The fields of byte 1 (R72) -/

/-- Bits 7 to 6, the quadrant of the opcode map. -/
def fieldQuadrant (op : Byte) : BitVec 2 := op.extractLsb' 6 2

/-- Bits 5 to 3: DDD, CCC, NNN, or the operation of an accumulator instruction (R71, R72). -/
def fieldDDD (op : Byte) : BitVec 3 := op.extractLsb' 3 3

/-- Bits 2 to 0: SSS (R72). -/
def fieldSSS (op : Byte) : BitVec 3 := op.extractLsb' 0 3

/-- Bits 5 to 4: RP (R72). -/
def fieldRP (op : Byte) : BitVec 2 := op.extractLsb' 4 2

/-! ## Codes of operands -/

/-- The register of a code; none for 110, which selects memory (R73). -/
def regOfCode (c : BitVec 3) : Option Reg :=
  match c with
  | 0b000#3 => some .b
  | 0b001#3 => some .c
  | 0b010#3 => some .d
  | 0b011#3 => some .e
  | 0b100#3 => some .h
  | 0b101#3 => some .l
  | 0b111#3 => some .a
  | _ => none

/-- The code of a register (R73). -/
def regCode : Reg → BitVec 3
  | .b => 0b000#3
  | .c => 0b001#3
  | .d => 0b010#3
  | .e => 0b011#3
  | .h => 0b100#3
  | .l => 0b101#3
  | .a => 0b111#3

/-- The pair of a code RP in `LXI`, `INX`, `DCX`, `DAD` (R74). -/
def pairOfCode (c : BitVec 2) : Pair :=
  match c with
  | 0b00#2 => .bc
  | 0b01#2 => .de
  | 0b10#2 => .hl
  | _ => .sp

/-- The code RP of a pair (R74). -/
def pairCode : Pair → BitVec 2
  | .bc => 0b00#2
  | .de => 0b01#2
  | .hl => 0b10#2
  | .sp => 0b11#2

/-- The pair of a code RP in `PUSH`, `POP`; none for 11, which is PSW there (R74). -/
def stackPairOfCode (c : BitVec 2) : Option StackPair :=
  match c with
  | 0b00#2 => some .bc
  | 0b01#2 => some .de
  | 0b10#2 => some .hl
  | _ => none

/-- The code RP of a pair of `PUSH`, `POP` (R74). -/
def stackPairCode : StackPair → BitVec 2
  | .bc => 0b00#2
  | .de => 0b01#2
  | .hl => 0b10#2

/-- The bit X of a pair of `LDAX`, `STAX` (R86). -/
def indexPairCode : IndexPair → BitVec 1
  | .bc => 0b0#1
  | .de => 0b1#1

/-! ## Byte 1 to instruction -/

/-- What byte 1 says: a whole instruction, or one that takes byte 2 (`data` or `port`), or bytes 3 and 2 (`addr` or
`data16`, byte 3 the high-order byte: R76). -/
inductive Layout where
  | one (i : Instr)
  | two (k : Byte → Instr)
  | three (k : Word → Instr)

/-- Bit 3 of byte 1, the fixed bit D3 of the register-pair layouts (R71). -/
def bitD3 (op : Byte) : Bool := op.getLsbD 3

/-- First bytes 00H to 3FH (R79). -/
def layoutQuadrant0 (op : Byte) : Layout :=
  match fieldSSS op with
  | 0b000#3 =>
    match fieldDDD op with
    | 0b000#3 => .one .nop
    | 0b001#3 => .one .undef08
    | 0b010#3 => .one .undef10
    | 0b011#3 => .one .undef18
    | 0b100#3 => .one .rim
    | 0b101#3 => .one .undef28
    | 0b110#3 => .one .sim
    | _ => .one .undef38
  | 0b001#3 => if bitD3 op then .one (.dad (pairOfCode (fieldRP op))) else .three (.lxi (pairOfCode (fieldRP op)))
  | 0b010#3 =>
    match fieldDDD op with
    | 0b000#3 => .one (.stax .bc)
    | 0b001#3 => .one (.ldax .bc)
    | 0b010#3 => .one (.stax .de)
    | 0b011#3 => .one (.ldax .de)
    | 0b100#3 => .three .shld
    | 0b101#3 => .three .lhld
    | 0b110#3 => .three .sta
    | _ => .three .lda
  | 0b011#3 => if bitD3 op then .one (.dcx (pairOfCode (fieldRP op))) else .one (.inx (pairOfCode (fieldRP op)))
  | 0b100#3 => .one (match regOfCode (fieldDDD op) with | some r => .inrR r | none => .inrM)
  | 0b101#3 => .one (match regOfCode (fieldDDD op) with | some r => .dcrR r | none => .dcrM)
  | 0b110#3 => .two (match regOfCode (fieldDDD op) with | some r => .mviR r | none => .mviM)
  | _ =>
    match fieldDDD op with
    | 0b000#3 => .one .rlc
    | 0b001#3 => .one .rrc
    | 0b010#3 => .one .ral
    | 0b011#3 => .one .rar
    | 0b100#3 => .one .daa
    | 0b101#3 => .one .cma
    | 0b110#3 => .one .stc
    | _ => .one .cmc

/-- First bytes 40H to 7FH: the moves, and `HLT` where both fields are 110 (R85). -/
def layoutQuadrant1 (op : Byte) : Layout :=
  match regOfCode (fieldDDD op), regOfCode (fieldSSS op) with
  | some r1, some r2 => .one (.movRR r1 r2)
  | some r, none => .one (.movRM r)
  | none, some r => .one (.movMR r)
  | none, none => .one .hlt

/-- First bytes 80H to BFH: the operation in bits 5 to 3, a register or memory in SSS (R71). -/
def layoutQuadrant2 (op : Byte) : Layout :=
  match fieldDDD op, regOfCode (fieldSSS op) with
  | 0b000#3, some r => .one (.addR r)
  | 0b000#3, none => .one .addM
  | 0b001#3, some r => .one (.adcR r)
  | 0b001#3, none => .one .adcM
  | 0b010#3, some r => .one (.subR r)
  | 0b010#3, none => .one .subM
  | 0b011#3, some r => .one (.sbbR r)
  | 0b011#3, none => .one .sbbM
  | 0b100#3, some r => .one (.anaR r)
  | 0b100#3, none => .one .anaM
  | 0b101#3, some r => .one (.xraR r)
  | 0b101#3, none => .one .xraM
  | 0b110#3, some r => .one (.oraR r)
  | 0b110#3, none => .one .oraM
  | _, some r => .one (.cmpR r)
  | _, none => .one .cmpM

/-- First bytes C0H to FFH (R79). -/
def layoutQuadrant3 (op : Byte) : Layout :=
  match fieldSSS op with
  | 0b000#3 =>
    match fieldDDD op with
    | 0b000#3 => .one .rnz
    | 0b001#3 => .one .rz
    | 0b010#3 => .one .rnc
    | 0b011#3 => .one .rc
    | 0b100#3 => .one .rpo
    | 0b101#3 => .one .rpe
    | 0b110#3 => .one .rp
    | _ => .one .rm
  | 0b001#3 =>
    if bitD3 op then
      match fieldRP op with
      | 0b00#2 => .one .ret
      | 0b01#2 => .one .undefD9
      | 0b10#2 => .one .pchl
      | _ => .one .sphl
    else .one (match stackPairOfCode (fieldRP op) with | some rp => .pop rp | none => .popPsw)
  | 0b010#3 =>
    match fieldDDD op with
    | 0b000#3 => .three .jnz
    | 0b001#3 => .three .jz
    | 0b010#3 => .three .jnc
    | 0b011#3 => .three .jc
    | 0b100#3 => .three .jpo
    | 0b101#3 => .three .jpe
    | 0b110#3 => .three .jp
    | _ => .three .jm
  | 0b011#3 =>
    match fieldDDD op with
    | 0b000#3 => .three .jmp
    | 0b001#3 => .one .undefCB
    | 0b010#3 => .two .outPort
    | 0b011#3 => .two .inPort
    | 0b100#3 => .one .xthl
    | 0b101#3 => .one .xchg
    | 0b110#3 => .one .di
    | _ => .one .ei
  | 0b100#3 =>
    match fieldDDD op with
    | 0b000#3 => .three .cnz
    | 0b001#3 => .three .cz
    | 0b010#3 => .three .cnc
    | 0b011#3 => .three .cc
    | 0b100#3 => .three .cpo
    | 0b101#3 => .three .cpe
    | 0b110#3 => .three .cp
    | _ => .three .cm
  | 0b101#3 =>
    if bitD3 op then
      match fieldRP op with
      | 0b00#2 => .three .call
      | 0b01#2 => .one .undefDD
      | 0b10#2 => .one .undefED
      | _ => .one .undefFD
    else .one (match stackPairOfCode (fieldRP op) with | some rp => .push rp | none => .pushPsw)
  | 0b110#3 =>
    match fieldDDD op with
    | 0b000#3 => .two .adi
    | 0b001#3 => .two .aci
    | 0b010#3 => .two .sui
    | 0b011#3 => .two .sbi
    | 0b100#3 => .two .ani
    | 0b101#3 => .two .xri
    | 0b110#3 => .two .ori
    | _ => .two .cpi
  | _ => .one (.rst (fieldDDD op))

/-- The one row of the opcode table that fits byte 1 (R87). -/
def layoutOf (op : Byte) : Layout :=
  match fieldQuadrant op with
  | 0b00#2 => layoutQuadrant0 op
  | 0b01#2 => layoutQuadrant1 op
  | 0b10#2 => layoutQuadrant2 op
  | _ => layoutQuadrant3 op

/-! ## Bytes to instruction -/

/-- Why a list of bytes is no instruction: it ends too early. No first byte is refused here, since each fits a row; the
ten undefined values decode to their own constructors, which `exec` refuses (R80). -/
inductive DecodeError where
  /-- the list is empty -/
  | noBytes
  /-- byte 1 asks for more bytes than the list holds (R78) -/
  | truncated (op : Byte)
deriving DecidableEq, Repr

/-- The instruction at the head of a list of bytes and the bytes after it (R87): byte 1 decides, then byte 2, then byte 3,
with byte 3 the high-order byte (R76). -/
def decode : List Byte → Except DecodeError (Instr × List Byte)
  | [] => .error .noBytes
  | op :: rest =>
    match layoutOf op, rest with
    | .one i, _ => .ok (i, rest)
    | .two k, byte2 :: rest' => .ok (k byte2, rest')
    | .three k, byte2 :: byte3 :: rest' => .ok (k (wordOf byte3 byte2), rest')
    | _, _ => .error (.truncated op)

/-- `len(op)`, the length of an instruction from byte 1 alone, as R78 writes it. For the ten undefined values the source
gives no length; the formula's "otherwise" makes it 1, and nothing but reading past the byte rests on it (log 15). -/
def opLength (op : Byte) : Nat :=
  if fieldQuadrant op = 0b00#2 ∧ op.extractLsb' 0 4 = 0b0001#4 then 3
  else if op = 0x22#8 ∨ op = 0x2A#8 ∨ op = 0x32#8 ∨ op = 0x3A#8 then 3
  else if fieldQuadrant op = 0b11#2 ∧ fieldSSS op = 0b010#3 then 3
  else if fieldQuadrant op = 0b11#2 ∧ fieldSSS op = 0b100#3 then 3
  else if op = 0xC3#8 ∨ op = 0xCD#8 then 3
  else if fieldQuadrant op = 0b00#2 ∧ fieldSSS op = 0b110#3 then 2
  else if fieldQuadrant op = 0b11#2 ∧ fieldSSS op = 0b110#3 then 2
  else if op = 0xD3#8 ∨ op = 0xDB#8 then 2
  else 1

/-- The instruction the decoder reads from an instruction whose bits are `w`, bit 0 the least significant bit of byte 1,
byte 2 in bits 15 to 8, byte 3 in bits 23 to 16; bits at `nbits` and above are 0. -/
def decodeTableWord (nbits w : Nat) : Option Instr :=
  let v := w % 2 ^ nbits
  match decode [BitVec.ofNat 8 v, BitVec.ofNat 8 (v / 256), BitVec.ofNat 8 (v / 65536)] with
  | .ok (i, _) => some i
  | .error _ => none

/-! ## Instruction to bytes -/

/-- The bytes of an instruction, from the "encoding" column of spec/opcode_table.json: byte 1 bit by bit, then `data` or
`port`, or the low-order and then the high-order byte (R71, R76). -/
def encode : Instr → List Byte
  | .movRR r1 r2 => [0b01#2 ++ regCode r1 ++ regCode r2]
  | .movRM r => [0b01#2 ++ regCode r ++ 0b110#3]
  | .movMR r => [0b01110#5 ++ regCode r]
  | .mviR r data => [0b00#2 ++ regCode r ++ 0b110#3, data]
  | .mviM data => [0b00110110#8, data]
  | .lxi rp data => [0b00#2 ++ pairCode rp ++ 0b0001#4, lowByte data, highByte data]
  | .lda addr => [0b00111010#8, lowByte addr, highByte addr]
  | .sta addr => [0b00110010#8, lowByte addr, highByte addr]
  | .lhld addr => [0b00101010#8, lowByte addr, highByte addr]
  | .shld addr => [0b00100010#8, lowByte addr, highByte addr]
  | .ldax rp => [0b000#3 ++ indexPairCode rp ++ 0b1010#4]
  | .stax rp => [0b000#3 ++ indexPairCode rp ++ 0b0010#4]
  | .xchg => [0b11101011#8]
  | .addR r => [0b10000#5 ++ regCode r]
  | .addM => [0b10000110#8]
  | .adi data => [0b11000110#8, data]
  | .adcR r => [0b10001#5 ++ regCode r]
  | .adcM => [0b10001110#8]
  | .aci data => [0b11001110#8, data]
  | .subR r => [0b10010#5 ++ regCode r]
  | .subM => [0b10010110#8]
  | .sui data => [0b11010110#8, data]
  | .sbbR r => [0b10011#5 ++ regCode r]
  | .sbbM => [0b10011110#8]
  | .sbi data => [0b11011110#8, data]
  | .inrR r => [0b00#2 ++ regCode r ++ 0b100#3]
  | .inrM => [0b00110100#8]
  | .dcrR r => [0b00#2 ++ regCode r ++ 0b101#3]
  | .dcrM => [0b00110101#8]
  | .inx rp => [0b00#2 ++ pairCode rp ++ 0b0011#4]
  | .dcx rp => [0b00#2 ++ pairCode rp ++ 0b1011#4]
  | .dad rp => [0b00#2 ++ pairCode rp ++ 0b1001#4]
  | .daa => [0b00100111#8]
  | .anaR r => [0b10100#5 ++ regCode r]
  | .anaM => [0b10100110#8]
  | .ani data => [0b11100110#8, data]
  | .xraR r => [0b10101#5 ++ regCode r]
  | .xraM => [0b10101110#8]
  | .xri data => [0b11101110#8, data]
  | .oraR r => [0b10110#5 ++ regCode r]
  | .oraM => [0b10110110#8]
  | .ori data => [0b11110110#8, data]
  | .cmpR r => [0b10111#5 ++ regCode r]
  | .cmpM => [0b10111110#8]
  | .cpi data => [0b11111110#8, data]
  | .rlc => [0b00000111#8]
  | .rrc => [0b00001111#8]
  | .ral => [0b00010111#8]
  | .rar => [0b00011111#8]
  | .cma => [0b00101111#8]
  | .cmc => [0b00111111#8]
  | .stc => [0b00110111#8]
  | .jmp addr => [0b11000011#8, lowByte addr, highByte addr]
  | .jnz addr => [0b11000010#8, lowByte addr, highByte addr]
  | .jz addr => [0b11001010#8, lowByte addr, highByte addr]
  | .jnc addr => [0b11010010#8, lowByte addr, highByte addr]
  | .jc addr => [0b11011010#8, lowByte addr, highByte addr]
  | .jpo addr => [0b11100010#8, lowByte addr, highByte addr]
  | .jpe addr => [0b11101010#8, lowByte addr, highByte addr]
  | .jp addr => [0b11110010#8, lowByte addr, highByte addr]
  | .jm addr => [0b11111010#8, lowByte addr, highByte addr]
  | .call addr => [0b11001101#8, lowByte addr, highByte addr]
  | .cnz addr => [0b11000100#8, lowByte addr, highByte addr]
  | .cz addr => [0b11001100#8, lowByte addr, highByte addr]
  | .cnc addr => [0b11010100#8, lowByte addr, highByte addr]
  | .cc addr => [0b11011100#8, lowByte addr, highByte addr]
  | .cpo addr => [0b11100100#8, lowByte addr, highByte addr]
  | .cpe addr => [0b11101100#8, lowByte addr, highByte addr]
  | .cp addr => [0b11110100#8, lowByte addr, highByte addr]
  | .cm addr => [0b11111100#8, lowByte addr, highByte addr]
  | .ret => [0b11001001#8]
  | .rnz => [0b11000000#8]
  | .rz => [0b11001000#8]
  | .rnc => [0b11010000#8]
  | .rc => [0b11011000#8]
  | .rpo => [0b11100000#8]
  | .rpe => [0b11101000#8]
  | .rp => [0b11110000#8]
  | .rm => [0b11111000#8]
  | .rst n => [0b11#2 ++ n ++ 0b111#3]
  | .pchl => [0b11101001#8]
  | .push rp => [0b11#2 ++ stackPairCode rp ++ 0b0101#4]
  | .pushPsw => [0b11110101#8]
  | .pop rp => [0b11#2 ++ stackPairCode rp ++ 0b0001#4]
  | .popPsw => [0b11110001#8]
  | .xthl => [0b11100011#8]
  | .sphl => [0b11111001#8]
  | .inPort port => [0b11011011#8, port]
  | .outPort port => [0b11010011#8, port]
  | .ei => [0b11111011#8]
  | .di => [0b11110011#8]
  | .hlt => [0b01110110#8]
  | .nop => [0b00000000#8]
  | .rim => [0b00100000#8]
  | .sim => [0b00110000#8]
  | .undef08 => [0b00001000#8]
  | .undef10 => [0b00010000#8]
  | .undef18 => [0b00011000#8]
  | .undef28 => [0b00101000#8]
  | .undef38 => [0b00111000#8]
  | .undefCB => [0b11001011#8]
  | .undefD9 => [0b11011001#8]
  | .undefDD => [0b11011101#8]
  | .undefED => [0b11101101#8]
  | .undefFD => [0b11111101#8]

end Sys2Proof
end

