-- ==== Sys2Proof/Machine/State.lean ====
section
/-! DEFINITION. The state of the machine as plain data (10_state.md R20), the reasons a step can stop, and the state right
after reset (10_state.md R39). `Regs`, `sp`, `pc`, `Flags` and `Ctl` are the CPU state of R20 and nothing else is; `mem`
and `platform` are the platform's (20_memory.md R50, R58); `env` and `tStates` are the model's own (INVENTORY.md). -/

namespace Sys2Proof.Machine

/-- The seven 8-bit registers (10_state.md R21). -/
structure Regs where
  b : Byte
  c : Byte
  d : Byte
  e : Byte
  h : Byte
  l : Byte
  a : Byte
deriving DecidableEq, Repr

/-- The five condition flags (10_state.md R25). -/
structure Flags where
  z : Bool
  s : Bool
  p : Bool
  cy : Bool
  ac : Bool
deriving DecidableEq, Repr

/-- The interrupt, halt and serial state (10_state.md R30 to R37). The fields from `m55` on exist on the 8085A only; on the
8080A nothing reads or writes them (log 31). -/
structure Ctl where
  /-- interrupt enable flag (R30) -/
  ie : Bool
  /-- an `EI` has run and its enable has not yet taken effect (R30) -/
  eiPend : Bool
  /-- the instruction just completed was `EI` or `DI` (R30) -/
  intInhibit : Bool
  /-- stopped by `HLT` (R37) -/
  halted : Bool
  /-- interrupt masks, 1 = that interrupt disabled (R31) -/
  m55 : Bool
  m65 : Bool
  m75 : Bool
  /-- the RST 7.5 request latch (R32) -/
  r75 : Bool
  /-- serial output data latch (R33), an output: the environment observes its level here, at any state; that a change of it
  is no event of the record is the model's choice (log 36) -/
  sod : Bool
  /-- `IE` just before the last TRAP (R34) -/
  ieTrap : Bool
  /-- a TRAP has been taken and no `RIM` has run since (R34) -/
  trapRim : Bool
deriving DecidableEq, Repr

/-- RAM: the listed bytes, addresses strictly rising, none equal to what an unlisted address reads as (`Memory.wf`,
`unlistedByte`, in Ops.lean). `epoch` counts the reset events since power-up (log 24). -/
structure Memory where
  epoch : Nat
  cells : List Host.Cell
deriving DecidableEq, Repr

/-- The interrupt sources of 60_exceptions.md R231. -/
inductive IntSource where
  | trap
  | rst75
  | rst65
  | rst55
  | intr
deriving DecidableEq, Repr

/-- One answer of `IntEnv` at an instruction boundary (60_exceptions.md R233). -/
structure IntQuery where
  trap : Bool
  rst75Edge : Bool
  rst65 : Bool
  rst55 : Bool
  intr : Bool
  intrBytes : List Byte
deriving DecidableEq, Repr

/-- The default answer of `IntEnv`: nothing asserted (R233). -/
def IntQuery.idle : IntQuery where
  trap := false
  rst75Edge := false
  rst65 := false
  rst55 := false
  intr := false
  intrBytes := []

/-- What the environment does at an instruction boundary: it answers the query of R236, or it asserts reset, which
replaces whatever would have come next (70_reset_and_hazards.md R270). -/
inductive BoundaryInput where
  | query (q : IntQuery)
  | reset
deriving DecidableEq, Repr

/-- What `RIM` samples from outside when it runs: the SID line and the levels of the RST 6.5 and RST 5.5 lines
(10_state.md R35). -/
structure RimSample where
  sid : Bool
  rst65 : Bool
  rst55 : Bool
deriving DecidableEq, Repr

/-- What the environment sees, in order (20_memory.md R52, R54; 60_exceptions.md R233). The events of reads are the model's
own record of the order of accesses (log 25). The SOD line has no event: it is seen as the level of `Ctl.sod` (DESIGN
CHOICE, log 36). -/
inductive Event where
  | ioWrite (port v : Byte)
  | deviceWrite (addr : Word) (v : Byte)
  | accepted (src : IntSource)
  | ioRead (port : Byte)
  | deviceRead (addr : Word)
deriving DecidableEq, Repr

/-- The model's view of the environment: the answers it will give, oldest first; the record of what it has seen; and the
number of free values drawn so far. A list that has run out answers as its default says (logs 9 to 13). -/
structure Env where
  boundary : List BoundaryInput
  rim : List RimSample
  io : List Byte
  bus : List Byte
  trace : List Event
  draws : Nat
deriving DecidableEq, Repr

/-- The whole state. -/
structure State where
  regs : Regs
  sp : Word
  pc : Word
  flags : Flags
  ctl : Ctl
  mem : Memory
  platform : Platform
  env : Env
  tStates : Nat
deriving DecidableEq, Repr

/-- Why the machine stops with a fault. There is no constructor: the hardware has no synchronous exception, no trap and no
bus error, and every address exists (60_exceptions.md R230, 20_memory.md R63). Log 30. -/
inductive Fault where
deriving DecidableEq, Repr

/-- Why the model has no transition. -/
inductive Refusal where
  /-- An instruction without a meaning yet, by its mnemonic; raised by `exec` only. No arm does so now. Safe. -/
  | notModelled (mnemonic : String)
  /-- A first byte that is no instruction of this part: the ten values of 30_encoding.md R80, and 20H, 30H on the 8080A
  (R81). Raised by the meanings of those rows. Safe: the source gives them no behaviour (D20, log 15). -/
  | undefinedOpcode (op : Byte)
  /-- An INTR acknowledge that supplies anything but `RST n` or `CALL addr` (60_exceptions.md R242, R245). Raised by the
  boundary procedure. Safe: a constraint on the platform (D13, U6, log 16). -/
  | prohibitedAcknowledge (bytes : List Byte)
deriving DecidableEq, Repr

/-- What running an instruction or a step answers. -/
abbrev Result := Host.Outcome State Fault Refusal

/-- An environment that asserts nothing and has given nothing yet (R233). -/
def Env.idle : Env where
  boundary := []
  rim := []
  io := []
  bus := []
  trace := []
  draws := 0

/-- The state right after reset on a platform (10_state.md R39). The registers, the flags and `IEtrap`, for which the spec
gives no value, are 0, and RAM lists nothing: DESIGN CHOICE, logs 2 and 3. -/
def State.powerUp (p : Platform) : State where
  regs := { b := 0, c := 0, d := 0, e := 0, h := 0, l := 0, a := 0 }
  sp := 0
  pc := p.resetPc
  flags := { z := false, s := false, p := false, cy := false, ac := false }
  ctl :=
    { ie := false, eiPend := false, intInhibit := false, halted := false
      m55 := true, m65 := true, m75 := true, r75 := false, sod := false
      ieTrap := false, trapRim := false }
  mem := { epoch := 0, cells := [] }
  platform := p
  env := Env.idle
  tStates := 0

/-- The machine right after reset: an 8085A on the default platform (INDEX.md, 00_scope.md R7; log 1). -/
def State.reset : State := State.powerUp (Platform.standard .v8085A)

end Sys2Proof.Machine
end

