-- ==== Sys2Proof/Machine/Flags.lean ====
section
/-! DEFINITION. Every flag computation of the spec: the standard rules (10_state.md R26 to R28), the decimal adjustment
(41_arithmetic.md R140), the flags of the logical instructions (42_logical.md R151), the flag byte (10_state.md R25) and
the conditions (43_branch.md R180). -/

namespace Sys2Proof.Machine

/-- 1 if the value has an even number of 1 bits: the modulo 2 sum of the bits is 0 (10_state.md R26). -/
def parityEven (v : Byte) : Bool :=
  !((((v.getLsbD 7).xor (v.getLsbD 6)).xor ((v.getLsbD 5).xor (v.getLsbD 4))).xor
    (((v.getLsbD 3).xor (v.getLsbD 2)).xor ((v.getLsbD 1).xor (v.getLsbD 0))))

/-- `set_ZSP(v)` (R26): Z, S and P from a result, CY and AC as they are. -/
def setZsp (v : Byte) (f : Flags) : Flags :=
  { f with z := decide (v = 0#8), s := v.getLsbD 7, p := parityEven v }

/-- What an 8-bit operation delivers: the result and the two carries. -/
structure AluOut where
  result : Byte
  cy : Bool
  ac : Bool
deriving DecidableEq, Repr

/-- A carry as an N-bit number. -/
def carryIn (n : Nat) (c : Bool) : BitVec n := if c then 1#n else 0#n

/-- Bits 3 to 0 of a byte, widened to 5 bits. -/
def lowNibble5 (v : Byte) : BitVec 5 := (v.extractLsb' 0 4).setWidth 5

/-- `add8(a, b, c)` of 10_state.md R27. -/
def add8 (a b : Byte) (c : Bool) : AluOut :=
  let sum9 := a.setWidth 9 + b.setWidth 9 + carryIn 9 c
  let low5 := lowNibble5 a + lowNibble5 b + carryIn 5 c
  { result := sum9.setWidth 8, cy := sum9.getLsbD 8, ac := low5.getLsbD 4 }

/-- `sub8(a, b, c)` of 10_state.md R28: the two's-complement addition, CY turned into a borrow, AC not inverted
(D3, log 17). -/
def sub8 (a b : Byte) (c : Bool) : AluOut :=
  let sum9 := a.setWidth 9 + (~~~b).setWidth 9 + carryIn 9 (!c)
  let low5 := lowNibble5 a + lowNibble5 (~~~b) + carryIn 5 (!c)
  { result := sum9.setWidth 8, cy := !(sum9.getLsbD 8), ac := low5.getLsbD 4 }

/-- All five flags from an 8-bit operation: the standard rules (R26 to R28). -/
def AluOut.flags (r : AluOut) : Flags :=
  setZsp r.result { z := false, s := false, p := false, cy := r.cy, ac := r.ac }

/-- The flags of `INR` and `DCR`: all but CY (41_arithmetic.md R133 to R136). -/
def AluOut.flagsKeepCy (r : AluOut) (f : Flags) : Flags :=
  setZsp r.result { f with ac := r.ac }

/-- AC after an AND (42_logical.md R151): 1 on the 8085A, the OR of bits 3 of the operands on the 8080A. -/
def andAc (v : Variant) (a b : Byte) : Bool :=
  match v with
  | .v8085A => true
  | .v8080A => a.getLsbD 3 || b.getLsbD 3

/-- The flags of the AND, exclusive-OR and OR instructions: Z, S, P from the result, CY 0, AC as given (R151). -/
def logicFlags (result : Byte) (ac : Bool) : Flags :=
  setZsp result { z := false, s := false, p := false, cy := false, ac := ac }

/-- The 17-bit sum of `DAD` (41_arithmetic.md R139): the low 16 bits and the carry out of bit 15. -/
def add16 (x y : Word) : Word × Bool :=
  let sum17 := x.setWidth 17 + y.setWidth 17
  (sum17.setWidth 16, sum17.getLsbD 16)

/-- The two steps of `DAA` (41_arithmetic.md R140; D8, log 18). -/
def daa (a0 : Byte) (cy0 ac0 : Bool) : AluOut :=
  let do1 := decide ((a0.extractLsb' 0 4).toNat > 9) || ac0
  let s1 := a0.setWidth 9 + (if do1 then 0x06#9 else 0x00#9)
  let a1 : Byte := s1.setWidth 8
  let c1 := s1.getLsbD 8
  let ac1 := do1 && decide ((a0.extractLsb' 0 4).toNat + 6 > 15)
  let do2 := decide ((a1.extractLsb' 4 4).toNat > 9) || cy0 || c1
  let s2 := a1.setWidth 9 + (if do2 then 0x60#9 else 0x00#9)
  { result := s2.setWidth 8, cy := cy0 || c1 || s2.getLsbD 8, ac := ac1 }

/-- The flag byte S Z X AC X P X CY (10_state.md R25, 44_stack_io_control.md R202); `x` holds the three undefined bits. -/
def flagByte (f : Flags) (x : BitVec 3) : Byte :=
  BitVec.ofBool f.s ++ BitVec.ofBool f.z ++ BitVec.ofBool (x.getLsbD 2) ++ BitVec.ofBool f.ac ++
    BitVec.ofBool (x.getLsbD 1) ++ BitVec.ofBool f.p ++ BitVec.ofBool (x.getLsbD 0) ++ BitVec.ofBool f.cy

/-- The flags `POP PSW` takes from a flag byte; bits 5, 3 and 1 are ignored (44_stack_io_control.md R204). -/
def flagsOfByte (v : Byte) : Flags where
  z := v.getLsbD 6
  s := v.getLsbD 7
  p := v.getLsbD 2
  cy := v.getLsbD 0
  ac := v.getLsbD 4

/-- `cond(CCC)` (43_branch.md R180). -/
def condHolds (f : Flags) : Cond → Bool
  | .nz => !f.z
  | .z => f.z
  | .nc => !f.cy
  | .c => f.cy
  | .po => !f.p
  | .pe => f.p
  | .p => !f.s
  | .m => f.s

end Sys2Proof.Machine
end

