-- ==== Sys2Proof/Machine/Operands.lean ====
section
/-! DEFINITION. The register operands (10_state.md R21, R22), the one home of every register read and write, and the
operand classes of instructions. The memory operand M is the byte at `H :: L` (30_encoding.md R73), read and written with
the operations of Ops.lean. -/

namespace Sys2Proof.Machine

/-- `R[c]` read (10_state.md R21). -/
def State.reg (s : State) : Reg → Byte
  | .b => s.regs.b
  | .c => s.regs.c
  | .d => s.regs.d
  | .e => s.regs.e
  | .h => s.regs.h
  | .l => s.regs.l
  | .a => s.regs.a

/-- `R[c] <- v` (10_state.md R21). -/
def State.setReg (s : State) (r : Reg) (v : Byte) : State :=
  match r with
  | .b => { s with regs := { s.regs with b := v } }
  | .c => { s with regs := { s.regs with c := v } }
  | .d => { s with regs := { s.regs with d := v } }
  | .e => { s with regs := { s.regs with e := v } }
  | .h => { s with regs := { s.regs with h := v } }
  | .l => { s with regs := { s.regs with l := v } }
  | .a => { s with regs := { s.regs with a := v } }

/-- `H :: L`, the address of M. -/
def State.hl (s : State) : Word := wordOf s.regs.h s.regs.l

/-- `RP[c]` read (10_state.md R22). -/
def State.pair (s : State) : Pair → Word
  | .bc => wordOf s.regs.b s.regs.c
  | .de => wordOf s.regs.d s.regs.e
  | .hl => wordOf s.regs.h s.regs.l
  | .sp => s.sp

/-- `RP[c] <- v`: `v[15:8]` to the first register of the pair, `v[7:0]` to the second (10_state.md R22). -/
def State.setPair (s : State) (rp : Pair) (v : Word) : State :=
  match rp with
  | .bc => { s with regs := { s.regs with b := highByte v, c := lowByte v } }
  | .de => { s with regs := { s.regs with d := highByte v, e := lowByte v } }
  | .hl => { s with regs := { s.regs with h := highByte v, l := lowByte v } }
  | .sp => { s with sp := v }

/-- A pair of `PUSH`, `POP` among the pairs. -/
def pairOfStackPair : StackPair → Pair
  | .bc => .bc
  | .de => .de
  | .hl => .hl

/-- A pair of `LDAX`, `STAX` among the pairs. -/
def pairOfIndexPair : IndexPair → Pair
  | .bc => .bc
  | .de => .de

/-- `PC <- v`. -/
def State.setPc (s : State) (v : Word) : State := { s with pc := v }

/-- `SP <- v`. -/
def State.setSp (s : State) (v : Word) : State := { s with sp := v }

/-- All five flags at once. -/
def State.setFlags (s : State) (f : Flags) : State := { s with flags := f }

/-- The interrupt, halt and serial state at once. -/
def State.setCtl (s : State) (c : Ctl) : State := { s with ctl := c }

/-- The target of `RST n`: eight times NNN (30_encoding.md R76, 43_branch.md R188). -/
def restartTarget (n : BitVec 3) : Word := n.setWidth 16 * 8#16

/-- The condition a conditional jump, call or return tests (30_encoding.md R75); none for every other instruction. -/
def condOfInstr : Instr → Option Cond
  | .jnz _ | .cnz _ | .rnz => some .nz
  | .jz _ | .cz _ | .rz => some .z
  | .jnc _ | .cnc _ | .rnc => some .nc
  | .jc _ | .cc _ | .rc => some .c
  | .jpo _ | .cpo _ | .rpo => some .po
  | .jpe _ | .cpe _ | .rpe => some .pe
  | .jp _ | .cp _ | .rp => some .p
  | .jm _ | .cm _ | .rm => some .m
  | _ => none

end Sys2Proof.Machine
end

