-- ==== Sys2Proof/Machine/Ops.lean ====
section
/-! DEFINITION. The named operations over memory, ports, the stack and the accumulator, taking an interrupt and the return
from one, the reset event, and the bookkeeping at the end of an instruction. -/

namespace Sys2Proof.Machine

/-! ## RAM -/

/-- What a byte of RAM that nothing has written reads as, the ONE place that says so: 00H since power-up (DESIGN CHOICE,
log 3), a free byte since a reset event (70_reset_and_hazards.md R273, log 24). -/
def unlistedByte (epoch a : Nat) : Byte := if epoch = 0 then 0x00#8 else Config.ramByte epoch a

/-- The value listed at an address. -/
def lookupCell (a : Nat) : List Host.Cell → Option Byte
  | [] => none
  | (k, v) :: rest => if k = a then some v else lookupCell a rest

/-- The list without any entry at an address. -/
def eraseCell (a : Nat) : List Host.Cell → List Host.Cell
  | [] => []
  | (k, v) :: rest => if k = a then eraseCell a rest else (k, v) :: eraseCell a rest

/-- The list with an entry at an address, in rising order. -/
def insertCell (a : Nat) (v : Byte) : List Host.Cell → List Host.Cell
  | [] => [(a, v)]
  | (k, w) :: rest =>
    if a < k then (a, v) :: (k, w) :: rest
    else if k = a then (a, v) :: rest
    else (k, w) :: insertCell a v rest

/-- The byte RAM holds at an address (20_memory.md R53). -/
def Memory.read (m : Memory) (a : Nat) : Byte := (lookupCell a m.cells).getD (unlistedByte m.epoch a)

/-- RAM with a byte replaced (20_memory.md R54), in the canonical form. -/
def Memory.write (m : Memory) (a : Nat) (v : Byte) : Memory :=
  { m with cells := if v = unlistedByte m.epoch a then eraseCell a m.cells else insertCell a v m.cells }

/-- The canonical form: addresses strictly rising and below 65,536, no entry equal to what an unlisted address reads as. -/
abbrev Memory.wf (m : Memory) : Prop :=
  m.cells.Pairwise (fun x y => x.1 < y.1) ∧ ∀ c ∈ m.cells, c.1 < 65536 ∧ c.2 ≠ unlistedByte m.epoch c.1

/-! ## The memory map and the bus -/

/-- `MemMap` at an address: the kind of the first region that holds it, RAM where none does (20_memory.md R58). -/
def kindAt (p : Platform) (a : Word) : MemKind :=
  match p.memMap.find? (fun r => decide (r.base ≤ a.toNat) && decide (a.toNat < r.base + r.size)) with
  | some r => r.kind
  | none => .ram

/-- The fixed content of ROM at an address (R53, R58); 00H where the platform lists none (log 12). -/
def romByte (p : Platform) (a : Word) : Byte := (lookupCell a.toNat p.rom).getD 0x00#8

/-- An event at the end of the record of what the environment has seen. -/
def State.emit (s : State) (e : Event) : State :=
  { s with env := { s.env with trace := s.env.trace ++ [e] } }

/-- One more free value drawn. -/
def State.countDraw (s : State) : State := { s with env := { s.env with draws := s.env.draws + 1 } }

/-- The byte a location that is no memory delivers: the next input if there is one, else a free value (R53, log 12). -/
def State.busDraw (s : State) (a : Word) : Byte × State :=
  match s.env.bus with
  | v :: rest => (v, { s with env := { s.env with bus := rest } })
  | [] => (Config.busByte s.env.draws a, s.countDraw)

/-- `MemRead(addr, 1)` (20_memory.md R53): the byte, and the state, which only a read of an `absent` or `device` location
changes, and only in the model's own `env`. -/
def State.memRead (s : State) (a : Word) : Byte × State :=
  match kindAt s.platform a with
  | .ram => (s.mem.read a.toNat, s)
  | .rom => (romByte s.platform a, s)
  | .absent => s.busDraw a
  | .device => (s.emit (.deviceRead a)).busDraw a

/-- `MemWrite(addr, 1, v)` (20_memory.md R54). -/
def State.memWrite (s : State) (a : Word) (v : Byte) : State :=
  match kindAt s.platform a with
  | .ram => { s with mem := s.mem.write a.toNat v }
  | .rom => s
  | .absent => s
  | .device => s.emit (.deviceWrite a v)

/-- `MemRead(addr, 2)` (00_scope.md R11): the byte at `addr` first, as the low-order byte, then the one at `addr + 1`
(20_memory.md R55, R56). -/
def State.memRead2 (s : State) (a : Word) : Word × State :=
  let lo := s.memRead a
  let hi := lo.2.memRead (a + 1)
  (wordOf hi.1 lo.1, hi.2)

/-- `MemWrite(addr, 2, v)` (00_scope.md R11): the low-order byte at `addr`, then the high-order byte at `addr + 1`. -/
def State.memWrite2 (s : State) (a : Word) (v : Word) : State :=
  (s.memWrite a (lowByte v)).memWrite (a + 1) (highByte v)

/-! ## Ports -/

/-- `IoRead(port)` (20_memory.md R52): the next input byte if there is one, else a free value (log 11). -/
def State.ioRead (s : State) (port : Byte) : Byte × State :=
  let s1 := s.emit (.ioRead port)
  match s1.env.io with
  | v :: rest => (v, { s1 with env := { s1.env with io := rest } })
  | [] => (Config.ioByte s1.env.draws port, s1.countDraw)

/-- `IoWrite(port, v)` (20_memory.md R52): an output event, and no other change. -/
def State.ioWrite (s : State) (port v : Byte) : State := s.emit (.ioWrite port v)

/-! ## The stack -/

/-- `push16(v)` (10_state.md R24): the high-order byte at SP - 1, then the low-order byte at SP - 2, then SP - 2. -/
def State.push16 (s : State) (v : Word) : State :=
  ((s.memWrite (s.sp - 1) (highByte v)).memWrite (s.sp - 2) (lowByte v)).setSp (s.sp - 2)

/-- `pop16()` (10_state.md R24): the low-order byte from SP, then the high-order byte from SP + 1, then SP + 2. -/
def State.pop16 (s : State) : Word × State :=
  let r := s.memRead2 s.sp
  (r.1, r.2.setSp (s.sp + 2))

/-! ## The accumulator -/

/-- A from an 8-bit operation, and all five flags by the standard rules (41_arithmetic.md R121 to R132). -/
def State.setAluA (s : State) (r : AluOut) : State := (s.setReg .a r.result).setFlags r.flags

/-- A and the flags from an AND, exclusive-OR or OR (42_logical.md R151 to R160). -/
def State.setLogicA (s : State) (result : Byte) (ac : Bool) : State :=
  (s.setReg .a result).setFlags (logicFlags result ac)

/-- `A + b + c` (10_state.md R27). -/
def State.addA (s : State) (b : Byte) (c : Bool) : State := s.setAluA (add8 s.regs.a b c)

/-- `A - b - c` (10_state.md R28). -/
def State.subA (s : State) (b : Byte) (c : Bool) : State := s.setAluA (sub8 s.regs.a b c)

/-- `A & b`, with AC by variant (42_logical.md R152 to R154). -/
def State.andA (s : State) (b : Byte) : State :=
  s.setLogicA (s.regs.a &&& b) (andAc s.platform.variant s.regs.a b)

/-- `A ^ b` (42_logical.md R155 to R157). -/
def State.xorA (s : State) (b : Byte) : State := s.setLogicA (s.regs.a ^^^ b) false

/-- `A | b` (42_logical.md R158 to R160). -/
def State.orA (s : State) (b : Byte) : State := s.setLogicA (s.regs.a ||| b) false

/-- The comparison of A with `b`: the flags of `A - b`, A not written (42_logical.md R161 to R163). -/
def State.cmpA (s : State) (b : Byte) : State := s.setFlags (sub8 s.regs.a b false).flags

/-- CY alone. -/
def State.setCy (s : State) (c : Bool) : State := s.setFlags { s.flags with cy := c }

/-- A and CY from a rotate; no other flag (42_logical.md R164 to R167). -/
def State.rotA (s : State) (v : Byte) (c : Bool) : State := (s.setReg .a v).setCy c

/-! ## Branches -/

/-- `push16(PC); PC <- target` (43_branch.md R184): what `CALL`, a taken conditional call, `RST` and an interrupt entry do. -/
def State.callTo (s : State) (target : Word) : State := (s.push16 s.pc).setPc target

/-- `PC <- pop16()` (43_branch.md R186): what `RET` and a taken conditional return do, and so the return from an interrupt
(60_exceptions.md R246). -/
def State.returnFrom (s : State) : State :=
  let r := s.pop16
  r.2.setPc r.1

/-- `f` if the condition holds; otherwise control continues sequentially, with nothing else done (43_branch.md R181). -/
def State.onCond (s : State) (k : Cond) (f : State → State) : State := if condHolds s.flags k then f s else s

/-! ## Taking an interrupt -/

/-- The part every interrupt entry shares (60_exceptions.md R240, R242): the environment is told of the acceptance, IE,
EIpend, IntInhibit and halted become 0, PC is pushed and control goes to `target`. -/
def State.enterAt (s : State) (src : IntSource) (target : Word) : State :=
  ((s.emit (.accepted src)).setCtl
    { s.ctl with ie := false, eiPend := false, intInhibit := false, halted := false }).callTo target

/-! ## Reset -/

/-- The reset event (70_reset_and_hazards.md R270) of an environment that asserts RESET IN. What R273 leaves unspecified
becomes free values, RAM included (log 24); what the platform fixes and the model's own record stay. -/
def State.resetEvent (s : State) : State :=
  let n := s.mem.epoch + 1
  let m := { s.ctl with ie := false, eiPend := false, intInhibit := false, halted := false }
  { s with
    regs :=
      { b := Config.resetByte n 0, c := Config.resetByte n 1, d := Config.resetByte n 2, e := Config.resetByte n 3
        h := Config.resetByte n 4, l := Config.resetByte n 5, a := Config.resetByte n 6 }
    sp := Config.resetSp n
    pc := s.platform.resetPc
    flags :=
      { z := Config.resetBit n 0, s := Config.resetBit n 1, p := Config.resetBit n 2
        cy := Config.resetBit n 3, ac := Config.resetBit n 4 }
    ctl :=
      match s.platform.variant with
      | .v8085A =>
        { m with
          m55 := true, m65 := true, m75 := true, r75 := false, sod := false
          ieTrap := Config.resetBit n 5, trapRim := false }
      | .v8080A => m
    mem := { epoch := n, cells := [] } }

/-! ## The end of an instruction -/

/-- `EI`, the instruction that delays the enable (44_stack_io_control.md R209). -/
def isEi : Instr → Bool
  | .ei => true
  | _ => false

/-- `DI` (44_stack_io_control.md R210). -/
def isDi : Instr → Bool
  | .di => true
  | _ => false

/-- The interrupt-enable bookkeeping of 00_scope.md R12 item 6; `e` is the value EIpend had when `i` was fetched. -/
def State.enableBookkeeping (i : Instr) (e : Bool) (s : State) : State :=
  s.setCtl
    { s.ctl with
      ie := s.ctl.ie || (e && !isDi i)
      eiPend := isEi i
      intInhibit := isEi i || isDi i }

end Sys2Proof.Machine
end

