-- ==== Sys2Proof/Machine/Arithmetic.lean ====
section
/-! DEFINITION. The arithmetic group (41_arithmetic.md): one meaning per instruction, the pseudocode of its rule over the shared
operations. Flags by the standard rules unless a meaning says otherwise (R120). -/

namespace Sys2Proof.Machine

/-- `ADD r`, R121: `add8(A, R[SSS], 0)` to A and all five flags. -/
def execAddR (r : Reg) (s : State) : Result :=
  .next (s.addA (s.reg r) false)

/-- `ADD M`, R122: `add8(A, MemRead(H :: L, 1), 0)` to A and all five flags. -/
def execAddM (s : State) : Result :=
  let m := s.memRead s.hl
  .next (m.2.addA m.1 false)

/-- `ADI data`, R123: `add8(A, byte2, 0)` to A and all five flags. -/
def execAdi (data : Byte) (s : State) : Result :=
  .next (s.addA data false)

/-- `ADC r`, R124: `add8(A, R[SSS], CY)` to A and all five flags. -/
def execAdcR (r : Reg) (s : State) : Result :=
  .next (s.addA (s.reg r) s.flags.cy)

/-- `ADC M`, R125: `add8(A, MemRead(H :: L, 1), CY)` to A and all five flags. -/
def execAdcM (s : State) : Result :=
  let m := s.memRead s.hl
  .next (m.2.addA m.1 s.flags.cy)

/-- `ACI data`, R126: `add8(A, byte2, CY)` to A and all five flags. -/
def execAci (data : Byte) (s : State) : Result :=
  .next (s.addA data s.flags.cy)

/-- `SUB r`, R127: `sub8(A, R[SSS], 0)` to A and all five flags. -/
def execSubR (r : Reg) (s : State) : Result :=
  .next (s.subA (s.reg r) false)

/-- `SUB M`, R128: `sub8(A, MemRead(H :: L, 1), 0)` to A and all five flags. -/
def execSubM (s : State) : Result :=
  let m := s.memRead s.hl
  .next (m.2.subA m.1 false)

/-- `SUI data`, R129: `sub8(A, byte2, 0)` to A and all five flags. -/
def execSui (data : Byte) (s : State) : Result :=
  .next (s.subA data false)

/-- `SBB r`, R130: `sub8(A, R[SSS], CY)` to A and all five flags. -/
def execSbbR (r : Reg) (s : State) : Result :=
  .next (s.subA (s.reg r) s.flags.cy)

/-- `SBB M`, R131: `sub8(A, MemRead(H :: L, 1), CY)` to A and all five flags. -/
def execSbbM (s : State) : Result :=
  let m := s.memRead s.hl
  .next (m.2.subA m.1 s.flags.cy)

/-- `SBI data`, R132: `sub8(A, byte2, CY)` to A and all five flags. -/
def execSbi (data : Byte) (s : State) : Result :=
  .next (s.subA data s.flags.cy)

/-- `INR r`, R133: `R[DDD] + 1`; all flags but CY, AC the carry out of bit 3 (10_state.md R29). -/
def execInrR (r : Reg) (s : State) : Result :=
  let v := add8 (s.reg r) 0x01#8 false
  .next ((s.setReg r v.result).setFlags (v.flagsKeepCy s.flags))

/-- `INR M`, R134: one read, then one write of `H :: L`; all flags but CY, also where the write is dropped. -/
def execInrM (s : State) : Result :=
  let m := s.memRead s.hl
  let v := add8 m.1 0x01#8 false
  .next ((m.2.memWrite s.hl v.result).setFlags (v.flagsKeepCy s.flags))

/-- `DCR r`, R135: `sub8(R[DDD], 01H, 0)`; all flags but CY. -/
def execDcrR (r : Reg) (s : State) : Result :=
  let v := sub8 (s.reg r) 0x01#8 false
  .next ((s.setReg r v.result).setFlags (v.flagsKeepCy s.flags))

/-- `DCR M`, R136: one read, then one write of `H :: L`; all flags but CY. -/
def execDcrM (s : State) : Result :=
  let m := s.memRead s.hl
  let v := sub8 m.1 0x01#8 false
  .next ((m.2.memWrite s.hl v.result).setFlags (v.flagsKeepCy s.flags))

/-- `INX rp`, R137: `RP[RP] + 1` modulo 65,536; no flag. -/
def execInx (rp : Pair) (s : State) : Result :=
  .next (s.setPair rp (s.pair rp + 1#16))

/-- `DCX rp`, R138: `RP[RP] - 1` modulo 65,536; no flag. -/
def execDcx (rp : Pair) (s : State) : Result :=
  .next (s.setPair rp (s.pair rp - 1#16))

/-- `DAD rp`, R139: `H :: L + RP[RP]`; CY alone, the carry out of bit 15. -/
def execDad (rp : Pair) (s : State) : Result :=
  let v := add16 s.hl (s.pair rp)
  .next ((s.setPair .hl v.1).setCy v.2)

/-- `DAA`, R140: the two-step decimal adjustment of A; all five flags. -/
def execDaa (s : State) : Result :=
  .next (s.setAluA (daa s.regs.a s.flags.cy s.flags.ac))

end Sys2Proof.Machine
end

