-- ==== Sys2Proof/Machine/Branch.lean ====
section
/-! DEFINITION. The branch group (43_branch.md): one meaning per instruction, the pseudocode of its rule over the shared
operations. In each, `PC` is already the next instruction address (00_scope.md R12 item 4). No flag is written (R181). -/

namespace Sys2Proof.Machine

/-- `JMP addr`, R182: `PC <- byte3 :: byte2`. -/
def execJmp (addr : Word) (s : State) : Result :=
  .next (s.setPc addr)

/-- `JNZ addr`, R183: `PC <- byte3 :: byte2` if the condition NZ holds. -/
def execJnz (addr : Word) (s : State) : Result :=
  .next (s.onCond .nz (fun t => t.setPc addr))

/-- `JZ addr`, R183: `PC <- byte3 :: byte2` if the condition Z holds. -/
def execJz (addr : Word) (s : State) : Result :=
  .next (s.onCond .z (fun t => t.setPc addr))

/-- `JNC addr`, R183: `PC <- byte3 :: byte2` if the condition NC holds. -/
def execJnc (addr : Word) (s : State) : Result :=
  .next (s.onCond .nc (fun t => t.setPc addr))

/-- `JC addr`, R183: `PC <- byte3 :: byte2` if the condition C holds. -/
def execJc (addr : Word) (s : State) : Result :=
  .next (s.onCond .c (fun t => t.setPc addr))

/-- `JPO addr`, R183: `PC <- byte3 :: byte2` if the condition PO holds. -/
def execJpo (addr : Word) (s : State) : Result :=
  .next (s.onCond .po (fun t => t.setPc addr))

/-- `JPE addr`, R183: `PC <- byte3 :: byte2` if the condition PE holds. -/
def execJpe (addr : Word) (s : State) : Result :=
  .next (s.onCond .pe (fun t => t.setPc addr))

/-- `JP addr`, R183: `PC <- byte3 :: byte2` if the condition P holds. -/
def execJp (addr : Word) (s : State) : Result :=
  .next (s.onCond .p (fun t => t.setPc addr))

/-- `JM addr`, R183: `PC <- byte3 :: byte2` if the condition M holds. -/
def execJm (addr : Word) (s : State) : Result :=
  .next (s.onCond .m (fun t => t.setPc addr))

/-- `CALL addr`, R184: `push16(PC); PC <- byte3 :: byte2`. -/
def execCall (addr : Word) (s : State) : Result :=
  .next (s.callTo addr)

/-- `CNZ addr`, R185: the actions of `CALL` if the condition NZ holds. -/
def execCnz (addr : Word) (s : State) : Result :=
  .next (s.onCond .nz (fun t => t.callTo addr))

/-- `CZ addr`, R185: the actions of `CALL` if the condition Z holds. -/
def execCz (addr : Word) (s : State) : Result :=
  .next (s.onCond .z (fun t => t.callTo addr))

/-- `CNC addr`, R185: the actions of `CALL` if the condition NC holds. -/
def execCnc (addr : Word) (s : State) : Result :=
  .next (s.onCond .nc (fun t => t.callTo addr))

/-- `CC addr`, R185: the actions of `CALL` if the condition C holds. -/
def execCc (addr : Word) (s : State) : Result :=
  .next (s.onCond .c (fun t => t.callTo addr))

/-- `CPO addr`, R185: the actions of `CALL` if the condition PO holds. -/
def execCpo (addr : Word) (s : State) : Result :=
  .next (s.onCond .po (fun t => t.callTo addr))

/-- `CPE addr`, R185: the actions of `CALL` if the condition PE holds. -/
def execCpe (addr : Word) (s : State) : Result :=
  .next (s.onCond .pe (fun t => t.callTo addr))

/-- `CP addr`, R185: the actions of `CALL` if the condition P holds. -/
def execCp (addr : Word) (s : State) : Result :=
  .next (s.onCond .p (fun t => t.callTo addr))

/-- `CM addr`, R185: the actions of `CALL` if the condition M holds. -/
def execCm (addr : Word) (s : State) : Result :=
  .next (s.onCond .m (fun t => t.callTo addr))

/-- `RET`, R186: `PC <- pop16()`. -/
def execRet (s : State) : Result :=
  .next s.returnFrom

/-- `RNZ`, R187: the actions of `RET` if the condition NZ holds. -/
def execRnz (s : State) : Result :=
  .next (s.onCond .nz State.returnFrom)

/-- `RZ`, R187: the actions of `RET` if the condition Z holds. -/
def execRz (s : State) : Result :=
  .next (s.onCond .z State.returnFrom)

/-- `RNC`, R187: the actions of `RET` if the condition NC holds. -/
def execRnc (s : State) : Result :=
  .next (s.onCond .nc State.returnFrom)

/-- `RC`, R187: the actions of `RET` if the condition C holds. -/
def execRc (s : State) : Result :=
  .next (s.onCond .c State.returnFrom)

/-- `RPO`, R187: the actions of `RET` if the condition PO holds. -/
def execRpo (s : State) : Result :=
  .next (s.onCond .po State.returnFrom)

/-- `RPE`, R187: the actions of `RET` if the condition PE holds. -/
def execRpe (s : State) : Result :=
  .next (s.onCond .pe State.returnFrom)

/-- `RP`, R187: the actions of `RET` if the condition P holds. -/
def execRp (s : State) : Result :=
  .next (s.onCond .p State.returnFrom)

/-- `RM`, R187: the actions of `RET` if the condition M holds. -/
def execRm (s : State) : Result :=
  .next (s.onCond .m State.returnFrom)

/-- `RST n`, R188: `push16(PC); PC <- 8 * NNN`. -/
def execRst (n : BitVec 3) (s : State) : Result :=
  .next (s.callTo (restartTarget n))

/-- `PCHL`, R189: `PC <- H :: L`. -/
def execPchl (s : State) : Result :=
  .next (s.setPc s.hl)

end Sys2Proof.Machine
end

