-- ==== Sys2Proof/Machine/DataTransfer.lean ====
section
/-! DEFINITION. The data transfer group (40_data_transfer.md): one meaning per instruction, the pseudocode of its rule over the shared
operations. No flag is read or written (R100). -/

namespace Sys2Proof.Machine

/-- `MOV r1,r2`, R101: `R[DDD] <- R[SSS]`. -/
def execMovRR (r1 : Reg) (r2 : Reg) (s : State) : Result :=
  .next (s.setReg r1 (s.reg r2))

/-- `MOV r,M`, R102: `R[DDD] <- MemRead(H :: L, 1)`, the address formed from the old H and L. -/
def execMovRM (r : Reg) (s : State) : Result :=
  let m := s.memRead s.hl
  .next (m.2.setReg r m.1)

/-- `MOV M,r`, R103: `MemWrite(H :: L, 1, R[SSS])`. -/
def execMovMR (r : Reg) (s : State) : Result :=
  .next (s.memWrite s.hl (s.reg r))

/-- `MVI r,data`, R104: `R[DDD] <- byte2`. -/
def execMviR (r : Reg) (data : Byte) (s : State) : Result :=
  .next (s.setReg r data)

/-- `MVI M,data`, R105: `MemWrite(H :: L, 1, byte2)`. -/
def execMviM (data : Byte) (s : State) : Result :=
  .next (s.memWrite s.hl data)

/-- `LXI rp,data16`, R106: `RP[RP] <- byte3 :: byte2`. -/
def execLxi (rp : Pair) (data : Word) (s : State) : Result :=
  .next (s.setPair rp data)

/-- `LDA addr`, R107: `A <- MemRead(byte3 :: byte2, 1)`. -/
def execLda (addr : Word) (s : State) : Result :=
  let m := s.memRead addr
  .next (m.2.setReg .a m.1)

/-- `STA addr`, R108: `MemWrite(byte3 :: byte2, 1, A)`. -/
def execSta (addr : Word) (s : State) : Result :=
  .next (s.memWrite addr s.regs.a)

/-- `LHLD addr`, R109: `L <- MemRead(addr, 1)`, then `H <- MemRead(addr + 1, 1)`. -/
def execLhld (addr : Word) (s : State) : Result :=
  let m := s.memRead2 addr
  .next (m.2.setPair .hl m.1)

/-- `SHLD addr`, R110: `MemWrite(addr, 1, L)`, then `MemWrite(addr + 1, 1, H)`. -/
def execShld (addr : Word) (s : State) : Result :=
  .next (s.memWrite2 addr s.hl)

/-- `LDAX rp`, R111: `A <- MemRead` at the address in B-C or D-E. -/
def execLdax (rp : IndexPair) (s : State) : Result :=
  let m := s.memRead (s.pair (pairOfIndexPair rp))
  .next (m.2.setReg .a m.1)

/-- `STAX rp`, R112: `MemWrite` of A at the address in B-C or D-E. -/
def execStax (rp : IndexPair) (s : State) : Result :=
  .next (s.memWrite (s.pair (pairOfIndexPair rp)) s.regs.a)

/-- `XCHG`, R113: H, L exchanged with D, E, both read before. -/
def execXchg (s : State) : Result :=
  .next ((s.setPair .hl (s.pair .de)).setPair .de s.hl)

end Sys2Proof.Machine
end

