-- ==== Sys2Proof/Machine/Logical.lean ====
section
/-! DEFINITION. The logical group (42_logical.md): one meaning per instruction, the pseudocode of its rule over the shared
operations. Flags by R151, the compares by the subtraction rules, the rotates CY alone (R150). -/

namespace Sys2Proof.Machine

/-- `ANA r`, R152: `A & R[SSS]` to A; flags by R151. -/
def execAnaR (r : Reg) (s : State) : Result :=
  .next (s.andA (s.reg r))

/-- `ANA M`, R153: `A & MemRead(H :: L, 1)` to A; flags by R151. -/
def execAnaM (s : State) : Result :=
  let m := s.memRead s.hl
  .next (m.2.andA m.1)

/-- `ANI data`, R154: `A & byte2` to A; flags by R151. -/
def execAni (data : Byte) (s : State) : Result :=
  .next (s.andA data)

/-- `XRA r`, R155: `A ^ R[SSS]` to A; flags by R151. -/
def execXraR (r : Reg) (s : State) : Result :=
  .next (s.xorA (s.reg r))

/-- `XRA M`, R156: `A ^ MemRead(H :: L, 1)` to A; flags by R151. -/
def execXraM (s : State) : Result :=
  let m := s.memRead s.hl
  .next (m.2.xorA m.1)

/-- `XRI data`, R157: `A ^ byte2` to A; flags by R151. -/
def execXri (data : Byte) (s : State) : Result :=
  .next (s.xorA data)

/-- `ORA r`, R158: `A | R[SSS]` to A; flags by R151. -/
def execOraR (r : Reg) (s : State) : Result :=
  .next (s.orA (s.reg r))

/-- `ORA M`, R159: `A | MemRead(H :: L, 1)` to A; flags by R151. -/
def execOraM (s : State) : Result :=
  let m := s.memRead s.hl
  .next (m.2.orA m.1)

/-- `ORI data`, R160: `A | byte2` to A; flags by R151. -/
def execOri (data : Byte) (s : State) : Result :=
  .next (s.orA data)

/-- `CMP r`, R161: the flags of `sub8(A, R[SSS], 0)`; A not written. -/
def execCmpR (r : Reg) (s : State) : Result :=
  .next (s.cmpA (s.reg r))

/-- `CMP M`, R162: the flags of `sub8(A, MemRead(H :: L, 1), 0)`; A not written. -/
def execCmpM (s : State) : Result :=
  let m := s.memRead s.hl
  .next (m.2.cmpA m.1)

/-- `CPI data`, R163: the flags of `sub8(A, byte2, 0)`; A not written (log 32). -/
def execCpi (data : Byte) (s : State) : Result :=
  .next (s.cmpA data)

/-- `RLC`, R164: `A <- a[6:0] :: a[7]`, `CY <- a[7]`. -/
def execRlc (s : State) : Result :=
  .next (s.rotA (s.regs.a.extractLsb' 0 7 ++ s.regs.a.extractLsb' 7 1) (s.regs.a.getLsbD 7))

/-- `RRC`, R165: `A <- a[0] :: a[7:1]`, `CY <- a[0]`. -/
def execRrc (s : State) : Result :=
  .next (s.rotA (s.regs.a.extractLsb' 0 1 ++ s.regs.a.extractLsb' 1 7) (s.regs.a.getLsbD 0))

/-- `RAL`, R166: `A <- a[6:0] :: CY`, `CY <- a[7]`. -/
def execRal (s : State) : Result :=
  .next (s.rotA (s.regs.a.extractLsb' 0 7 ++ BitVec.ofBool s.flags.cy) (s.regs.a.getLsbD 7))

/-- `RAR`, R167: `A <- CY :: a[7:1]`, `CY <- a[0]`. -/
def execRar (s : State) : Result :=
  .next (s.rotA (BitVec.ofBool s.flags.cy ++ s.regs.a.extractLsb' 1 7) (s.regs.a.getLsbD 0))

/-- `CMA`, R168: `A <- ~A`; no flag. -/
def execCma (s : State) : Result :=
  .next (s.setReg .a (~~~s.regs.a))

/-- `CMC`, R169: `CY <- 1 - CY`; no other flag. -/
def execCmc (s : State) : Result :=
  .next (s.setCy (!s.flags.cy))

/-- `STC`, R170: `CY <- 1`; no other flag. -/
def execStc (s : State) : Result :=
  .next (s.setCy true)

end Sys2Proof.Machine
end

