-- ==== Sys2Proof/Machine/StackIoControl.lean ====
section
/-! DEFINITION. The stack, I/O and machine control group (44_stack_io_control.md): one meaning per instruction, the pseudocode of its rule over the shared
operations. Only `POP PSW` writes condition flags (R200). -/

namespace Sys2Proof.Machine

/-- What `RIM` samples from outside (10_state.md R35): the next sample if there is one; else SID is a free value and both
lines are low, as the default of `IntEnv` has them (log 10). -/
def State.rimSample (s : State) : RimSample × State :=
  match s.env.rim with
  | q :: rest => (q, { s with env := { s.env with rim := rest } })
  | [] => ({ sid := Config.sidLevel s.env.draws, rst65 := false, rst55 := false }, s.countDraw)

/-- Bit 3 that `RIM` loads (R213): `IEtrap` at the first `RIM` after a TRAP, a free value directly after an `EI` (log 14),
`IE` otherwise. -/
def State.rimIeBit (s : State) : Bool × State :=
  if s.ctl.trapRim then (s.ctl.ieTrap, s)
  else if s.ctl.eiPend then (Config.rimIeBit s.env.draws, s.countDraw)
  else (s.ctl.ie, s)

/-- The byte `RIM` loads, bit 7 down to bit 0: SID, I7.5, I6.5, I5.5, IE, M7.5, M6.5, M5.5 (R213; log 6). -/
def rimByte (q : RimSample) (c : Ctl) (ieBit : Bool) : Byte :=
  BitVec.ofBool q.sid ++ BitVec.ofBool c.r75 ++ BitVec.ofBool q.rst65 ++ BitVec.ofBool q.rst55 ++
    BitVec.ofBool ieBit ++ BitVec.ofBool c.m75 ++ BitVec.ofBool c.m65 ++ BitVec.ofBool c.m55

/-- What `SIM` does with the byte in A (R214): masks from bits 2 to 0 if bit 3, RST 7.5 latch reset if bit 4, SOD from bit
7 if bit 6; bit 5 is ignored (D21, log 23). -/
def simCtl (v : Byte) (c : Ctl) : Ctl :=
  { c with
    m55 := if v.getLsbD 3 then v.getLsbD 0 else c.m55
    m65 := if v.getLsbD 3 then v.getLsbD 1 else c.m65
    m75 := if v.getLsbD 3 then v.getLsbD 2 else c.m75
    r75 := if v.getLsbD 4 then false else c.r75
    sod := if v.getLsbD 6 then v.getLsbD 7 else c.sod }

/-- `PUSH rp`, R201: `rh` at SP - 1, `rl` at SP - 2, `SP <- SP - 2`. -/
def execPush (rp : StackPair) (s : State) : Result :=
  .next (s.push16 (s.pair (pairOfStackPair rp)))

/-- `PUSH PSW`, R202: A at SP - 1, the flag byte at SP - 2, `SP <- SP - 2`; the three X bits are a free value drawn at every `PUSH PSW` (log 13). -/
def execPushPsw (s : State) : Result :=
  .next (s.countDraw.push16 (wordOf s.regs.a (flagByte s.flags (Config.flagByteX s.env.draws))))

/-- `POP rp`, R203: `rl` from SP, `rh` from SP + 1, `SP <- SP + 2`. -/
def execPop (rp : StackPair) (s : State) : Result :=
  let m := s.pop16
  .next (m.2.setPair (pairOfStackPair rp) m.1)

/-- `POP PSW`, R204: the flags from the byte at SP, A from the byte at SP + 1, `SP <- SP + 2`. -/
def execPopPsw (s : State) : Result :=
  let m := s.pop16
  .next ((m.2.setReg .a (highByte m.1)).setFlags (flagsOfByte (lowByte m.1)))

/-- `XTHL`, R205: two reads, then H to SP + 1 and L to SP (D4, log 20), then H, L from what was read; SP as it was. -/
def execXthl (s : State) : Result :=
  let m := s.memRead2 s.sp
  .next (((m.2.memWrite (s.sp + 1) s.regs.h).memWrite s.sp s.regs.l).setPair .hl m.1)

/-- `SPHL`, R206: `SP <- H :: L`. -/
def execSphl (s : State) : Result :=
  .next (s.setSp s.hl)

/-- `IN port`, R207: `A <- IoRead(byte2)`; no flag. -/
def execInPort (port : Byte) (s : State) : Result :=
  let m := s.ioRead port
  .next (m.2.setReg .a m.1)

/-- `OUT port`, R208: `IoWrite(byte2, A)`. -/
def execOutPort (port : Byte) (s : State) : Result :=
  .next (s.ioWrite port s.regs.a)

/-- `EI`, R209: `EIpend <- 1; IntInhibit <- 1`; `State.enableBookkeeping` then delays the enable (00_scope.md R12 item 6). -/
def execEi (s : State) : Result :=
  .next (s.setCtl { s.ctl with eiPend := true, intInhibit := true })

/-- `DI`, R210: `IE <- 0; EIpend <- 0; IntInhibit <- 1`. -/
def execDi (s : State) : Result :=
  .next (s.setCtl { s.ctl with ie := false, eiPend := false, intInhibit := true })

/-- `HLT`, R211: `halted <- 1`. -/
def execHlt (s : State) : Result :=
  .next (s.setCtl { s.ctl with halted := true })

/-- `NOP`, R212: nothing. -/
def execNop (s : State) : Result :=
  .next s

/-- `RIM`, R213: A from the masks, the enable flag, the pending lines and SID; `TrapRim <- 0`. On the 8080A 20H is no
instruction (30_encoding.md R81). -/
def execRim (s : State) : Result :=
  match s.platform.variant with
  | .v8080A => .refused (.undefinedOpcode 0x20#8)
  | .v8085A =>
    let ie := s.rimIeBit
    let q := ie.2.rimSample
    .next ((q.2.setReg .a (rimByte q.1 s.ctl ie.1)).setCtl { s.ctl with trapRim := false })

/-- `SIM`, R214. On the 8080A 30H is no instruction (30_encoding.md R81). -/
def execSim (s : State) : Result :=
  match s.platform.variant with
  | .v8080A => .refused (.undefinedOpcode 0x30#8)
  | .v8085A => .next (s.setCtl (simCtl s.regs.a s.ctl))

end Sys2Proof.Machine
end

