-- ==== Sys2Proof/Machine/Undefined.lean ====
section
/-! DEFINITION. The ten first bytes the source gives no instruction (30_encoding.md R80): the model does
`refuse Undefined(op)` and has no successor state (D20, log 15). -/

namespace Sys2Proof.Machine

/-- First byte 08H, R80. -/
def execUndef08 (_s : State) : Result :=
  .refused (.undefinedOpcode 0x08#8)

/-- First byte 10H, R80. -/
def execUndef10 (_s : State) : Result :=
  .refused (.undefinedOpcode 0x10#8)

/-- First byte 18H, R80. -/
def execUndef18 (_s : State) : Result :=
  .refused (.undefinedOpcode 0x18#8)

/-- First byte 28H, R80. -/
def execUndef28 (_s : State) : Result :=
  .refused (.undefinedOpcode 0x28#8)

/-- First byte 38H, R80. -/
def execUndef38 (_s : State) : Result :=
  .refused (.undefinedOpcode 0x38#8)

/-- First byte CBH, R80. -/
def execUndefCB (_s : State) : Result :=
  .refused (.undefinedOpcode 0xCB#8)

/-- First byte D9H, R80. -/
def execUndefD9 (_s : State) : Result :=
  .refused (.undefinedOpcode 0xD9#8)

/-- First byte DDH, R80. -/
def execUndefDD (_s : State) : Result :=
  .refused (.undefinedOpcode 0xDD#8)

/-- First byte EDH, R80. -/
def execUndefED (_s : State) : Result :=
  .refused (.undefinedOpcode 0xED#8)

/-- First byte FDH, R80. -/
def execUndefFD (_s : State) : Result :=
  .refused (.undefinedOpcode 0xFD#8)

end Sys2Proof.Machine
end

