-- ==== Sys2Proof/Machine/Dispatch.lean ====
section
/-! DEFINITION. The meaning of each instruction, one arm per row of spec/opcode_table.json. The state an arm is run on has
PC already advanced past the instruction (00_scope.md R12). -/

namespace Sys2Proof.Machine

def exec (i : Instr) (s : State) : Host.Outcome State Fault Refusal :=
  match i with
  | .movRR r1 r2 => Sys2Proof.Machine.execMovRR r1 r2 s
  | .movRM r => Sys2Proof.Machine.execMovRM r s
  | .movMR r => Sys2Proof.Machine.execMovMR r s
  | .mviR r data => Sys2Proof.Machine.execMviR r data s
  | .mviM data => Sys2Proof.Machine.execMviM data s
  | .lxi rp data => Sys2Proof.Machine.execLxi rp data s
  | .lda addr => Sys2Proof.Machine.execLda addr s
  | .sta addr => Sys2Proof.Machine.execSta addr s
  | .lhld addr => Sys2Proof.Machine.execLhld addr s
  | .shld addr => Sys2Proof.Machine.execShld addr s
  | .ldax rp => Sys2Proof.Machine.execLdax rp s
  | .stax rp => Sys2Proof.Machine.execStax rp s
  | .xchg => Sys2Proof.Machine.execXchg s
  | .addR r => Sys2Proof.Machine.execAddR r s
  | .addM => Sys2Proof.Machine.execAddM s
  | .adi data => Sys2Proof.Machine.execAdi data s
  | .adcR r => Sys2Proof.Machine.execAdcR r s
  | .adcM => Sys2Proof.Machine.execAdcM s
  | .aci data => Sys2Proof.Machine.execAci data s
  | .subR r => Sys2Proof.Machine.execSubR r s
  | .subM => Sys2Proof.Machine.execSubM s
  | .sui data => Sys2Proof.Machine.execSui data s
  | .sbbR r => Sys2Proof.Machine.execSbbR r s
  | .sbbM => Sys2Proof.Machine.execSbbM s
  | .sbi data => Sys2Proof.Machine.execSbi data s
  | .inrR r => Sys2Proof.Machine.execInrR r s
  | .inrM => Sys2Proof.Machine.execInrM s
  | .dcrR r => Sys2Proof.Machine.execDcrR r s
  | .dcrM => Sys2Proof.Machine.execDcrM s
  | .inx rp => Sys2Proof.Machine.execInx rp s
  | .dcx rp => Sys2Proof.Machine.execDcx rp s
  | .dad rp => Sys2Proof.Machine.execDad rp s
  | .daa => Sys2Proof.Machine.execDaa s
  | .anaR r => Sys2Proof.Machine.execAnaR r s
  | .anaM => Sys2Proof.Machine.execAnaM s
  | .ani data => Sys2Proof.Machine.execAni data s
  | .xraR r => Sys2Proof.Machine.execXraR r s
  | .xraM => Sys2Proof.Machine.execXraM s
  | .xri data => Sys2Proof.Machine.execXri data s
  | .oraR r => Sys2Proof.Machine.execOraR r s
  | .oraM => Sys2Proof.Machine.execOraM s
  | .ori data => Sys2Proof.Machine.execOri data s
  | .cmpR r => Sys2Proof.Machine.execCmpR r s
  | .cmpM => Sys2Proof.Machine.execCmpM s
  | .cpi data => Sys2Proof.Machine.execCpi data s
  | .rlc => Sys2Proof.Machine.execRlc s
  | .rrc => Sys2Proof.Machine.execRrc s
  | .ral => Sys2Proof.Machine.execRal s
  | .rar => Sys2Proof.Machine.execRar s
  | .cma => Sys2Proof.Machine.execCma s
  | .cmc => Sys2Proof.Machine.execCmc s
  | .stc => Sys2Proof.Machine.execStc s
  | .jmp addr => Sys2Proof.Machine.execJmp addr s
  | .jnz addr => Sys2Proof.Machine.execJnz addr s
  | .jz addr => Sys2Proof.Machine.execJz addr s
  | .jnc addr => Sys2Proof.Machine.execJnc addr s
  | .jc addr => Sys2Proof.Machine.execJc addr s
  | .jpo addr => Sys2Proof.Machine.execJpo addr s
  | .jpe addr => Sys2Proof.Machine.execJpe addr s
  | .jp addr => Sys2Proof.Machine.execJp addr s
  | .jm addr => Sys2Proof.Machine.execJm addr s
  | .call addr => Sys2Proof.Machine.execCall addr s
  | .cnz addr => Sys2Proof.Machine.execCnz addr s
  | .cz addr => Sys2Proof.Machine.execCz addr s
  | .cnc addr => Sys2Proof.Machine.execCnc addr s
  | .cc addr => Sys2Proof.Machine.execCc addr s
  | .cpo addr => Sys2Proof.Machine.execCpo addr s
  | .cpe addr => Sys2Proof.Machine.execCpe addr s
  | .cp addr => Sys2Proof.Machine.execCp addr s
  | .cm addr => Sys2Proof.Machine.execCm addr s
  | .ret => Sys2Proof.Machine.execRet s
  | .rnz => Sys2Proof.Machine.execRnz s
  | .rz => Sys2Proof.Machine.execRz s
  | .rnc => Sys2Proof.Machine.execRnc s
  | .rc => Sys2Proof.Machine.execRc s
  | .rpo => Sys2Proof.Machine.execRpo s
  | .rpe => Sys2Proof.Machine.execRpe s
  | .rp => Sys2Proof.Machine.execRp s
  | .rm => Sys2Proof.Machine.execRm s
  | .rst n => Sys2Proof.Machine.execRst n s
  | .pchl => Sys2Proof.Machine.execPchl s
  | .push rp => Sys2Proof.Machine.execPush rp s
  | .pushPsw => Sys2Proof.Machine.execPushPsw s
  | .pop rp => Sys2Proof.Machine.execPop rp s
  | .popPsw => Sys2Proof.Machine.execPopPsw s
  | .xthl => Sys2Proof.Machine.execXthl s
  | .sphl => Sys2Proof.Machine.execSphl s
  | .inPort port => Sys2Proof.Machine.execInPort port s
  | .outPort port => Sys2Proof.Machine.execOutPort port s
  | .ei => Sys2Proof.Machine.execEi s
  | .di => Sys2Proof.Machine.execDi s
  | .hlt => Sys2Proof.Machine.execHlt s
  | .nop => Sys2Proof.Machine.execNop s
  | .rim => Sys2Proof.Machine.execRim s
  | .sim => Sys2Proof.Machine.execSim s
  | .undef08 => Sys2Proof.Machine.execUndef08 s
  | .undef10 => Sys2Proof.Machine.execUndef10 s
  | .undef18 => Sys2Proof.Machine.execUndef18 s
  | .undef28 => Sys2Proof.Machine.execUndef28 s
  | .undef38 => Sys2Proof.Machine.execUndef38 s
  | .undefCB => Sys2Proof.Machine.execUndefCB s
  | .undefD9 => Sys2Proof.Machine.execUndefD9 s
  | .undefDD => Sys2Proof.Machine.execUndefDD s
  | .undefED => Sys2Proof.Machine.execUndefED s
  | .undefFD => Sys2Proof.Machine.execUndefFD s

end Sys2Proof.Machine
end

