-- ==== Sys2Proof/Machine/Fetch.lean ====
section
/-! DEFINITION. Fetching an instruction (00_scope.md R12 items 3 and 4): every byte through `MemRead`, at the moment the
instruction is fetched (20_memory.md R67), then `PC <- PC + len`. -/

namespace Sys2Proof.Machine

/-- The 8085A does not read byte 3 of a conditional jump or call it does not take; the 8080A always does (43_branch.md
R183, R185). `i` is any instruction of the fetched operation, since the address does not matter. -/
def skipsByte3 (s : State) (i : Instr) : Bool :=
  match s.platform.variant, condOfInstr i with
  | .v8085A, some k => !condHolds s.flags k
  | _, _ => false

/-- The instruction at PC, and the state with its bytes read and PC past it. Where byte 3 is not read the high half of the
address is 00H; the instruction, not taken, does not use it (log 28). -/
def State.fetch (s : State) : Instr × State :=
  let op := s.memRead s.pc
  match layoutOf op.1 with
  | .one i => (i, op.2.setPc (s.pc + 1))
  | .two k =>
    let byte2 := op.2.memRead (s.pc + 1)
    (k byte2.1, byte2.2.setPc (s.pc + 2))
  | .three k =>
    let byte2 := op.2.memRead (s.pc + 1)
    if skipsByte3 s (k 0x0000#16) then (k (wordOf 0x00#8 byte2.1), byte2.2.setPc (s.pc + 3))
    else
      let byte3 := byte2.2.memRead (s.pc + 2)
      (k (wordOf byte3.1 byte2.1), byte3.2.setPc (s.pc + 3))

/-- The platform with RAM at the three addresses from `a` on: what `withFetchWord` needs where the memory map puts
something else there. An address that is RAM stays as it is. -/
def ramAt (p : Platform) (a : Word) : Platform :=
  match kindAt p a with
  | .ram => p
  | _ => { p with memMap := { base := a.toNat, size := 1, kind := .ram } :: p.memMap }

/-- The state with a byte of a program placed in RAM at an address. -/
def State.placeByte (s : State) (a : Word) (v : Byte) : State :=
  { s with platform := ramAt s.platform a, mem := s.mem.write a.toNat v }

end Sys2Proof.Machine
end

