-- ==== Sys2Proof/Machine/Interrupts.lean ====
section
/-! DEFINITION. The boundary procedure (60_exceptions.md R231 to R249): the query of the environment, the latch of RST 7.5,
gating, priority, and the two kinds of interrupt entry. -/

namespace Sys2Proof.Machine

/-- The query as the part sees it: on the 8080A `trap`, `rst75_edge`, `rst65` and `rst55` are always 0 (R233). -/
def IntQuery.forVariant (q : IntQuery) (v : Variant) : IntQuery :=
  match v with
  | .v8085A => q
  | .v8080A => { q with trap := false, rst75Edge := false, rst65 := false, rst55 := false }

/-- What the environment does at this boundary, as this part sees it: the next input of the list, or the default query
that asserts nothing (R233, R270; logs 9, 24). -/
def State.boundaryInput (s : State) : BoundaryInput :=
  match s.env.boundary with
  | [] => .query IntQuery.idle
  | .reset :: _ => .reset
  | .query q :: _ => .query (q.forVariant s.platform.variant)

/-- The state with this boundary's input used up. -/
def State.useBoundaryInput (s : State) : State :=
  { s with env := { s.env with boundary := s.env.boundary.tail } }

/-- `if IntEnv.rst75_edge then R75 <- 1`, whatever IE, M75, IntInhibit and halted are (R234). -/
def State.latchEdge (s : State) (q : IntQuery) : State :=
  s.setCtl { s.ctl with r75 := s.ctl.r75 || q.rst75Edge }

/-- The gate of one source, `accept_...` of R232; `R75` does not exist on the 8080A (R249). -/
def gateOpen (s : State) (q : IntQuery) : IntSource → Bool
  | .trap => q.trap
  | .rst75 => decide (s.platform.variant = .v8085A) && s.ctl.r75 && s.ctl.ie && !s.ctl.m75
  | .rst65 => q.rst65 && s.ctl.ie && !s.ctl.m65
  | .rst55 => q.rst55 && s.ctl.ie && !s.ctl.m55
  | .intr => q.intr && s.ctl.ie

/-- The source the boundary accepts: none while IntInhibit is 1 (R237); else the first whose gate is open in the order
TRAP, RST 7.5, RST 6.5, RST 5.5, INTR (R236, R238; PRESUMED by the spec itself, log 7). -/
def acceptedSource (s : State) (q : IntQuery) : Option IntSource :=
  if s.ctl.intInhibit then none
  else [IntSource.trap, .rst75, .rst65, .rst55, .intr].find? (gateOpen s q)

/-- The state a vectored entry starts from: TRAP saves IE in IEtrap and sets TrapRim, RST 7.5 resets its latch (R240). -/
def State.acknowledge (s : State) : IntSource → State
  | .trap => s.setCtl { s.ctl with ieTrap := s.ctl.ie, trapRim := true }
  | .rst75 => s.setCtl { s.ctl with r75 := false }
  | .rst65 => s
  | .rst55 => s
  | .intr => s

/-- The address an INTR entry goes to, from the bytes the device supplies: `RST n` or `CALL addr`; none for anything else
(R242, R245; log 16). -/
def acknowledgeTarget (bytes : List Byte) : Option Word :=
  match decode bytes with
  | .ok (.rst n, []) => some (restartTarget n)
  | .ok (.call addr, []) => some addr
  | _ => none

/-- The fixed entry address of a source; none for INTR (R241). -/
def vectorOf (p : Platform) : IntSource → Option Word
  | .trap => some p.vecTrap
  | .rst75 => some p.vecRst75
  | .rst65 => some p.vecRst65
  | .rst55 => some p.vecRst55
  | .intr => none

/-- Interrupt entry: to the fixed address of the source (R240), or, for INTR, to the one the supplied instruction names
(R242). -/
def State.enterInterrupt (s : State) (q : IntQuery) (src : IntSource) : Result :=
  match vectorOf s.platform src with
  | some target => .next ((s.acknowledge src).enterAt src target)
  | none =>
    match acknowledgeTarget q.intrBytes with
    | some target => .next (s.enterAt src target)
    | none => .refused (.prohibitedAcknowledge q.intrBytes)

end Sys2Proof.Machine
end

