-- ==== Sys2Proof/Machine/Timing.lean ====
section
/-! DEFINITION. Table 5-1 as data (70_reset_and_hazards.md R283 to R285): T states and machine cycles of every instruction
on both parts. Nothing that an instruction does depends on them (R286). -/

namespace Sys2Proof.Machine

/-- The machine cycles of R284. -/
inductive MachineCycle where
  /-- F, opcode fetch of four clock periods -/
  | fetch4
  /-- S, opcode fetch of six clock periods -/
  | fetch6
  /-- R -/
  | memRead
  /-- I -/
  | ioRead
  /-- W -/
  | memWrite
  /-- O -/
  | ioWrite
  /-- B -/
  | busIdle
deriving DecidableEq, Repr

/-- The T states of an instruction on a part (R283); for a conditional instruction `taken` picks the figure (R285). None
for what is no instruction of the part. -/
def tStatesOf (v : Variant) (taken : Bool) : Instr → Option Nat
  | .movRR _ _ | .inrR _ | .dcrR _ => match v with | .v8085A => some 4 | .v8080A => some 5
  | .movRM _ | .movMR _ | .mviR _ _ | .ldax _ | .stax _ | .addM | .adi _ | .adcM | .aci _ | .subM | .sui _
  | .sbbM | .sbi _ | .anaM | .ani _ | .xraM | .xri _ | .oraM | .ori _ | .cmpM | .cpi _ => some 7
  | .mviM _ | .lxi _ _ | .inrM | .dcrM | .dad _ | .jmp _ | .ret | .pop _ | .popPsw | .inPort _ | .outPort _ => some 10
  | .lda _ | .sta _ => some 13
  | .lhld _ | .shld _ => some 16
  | .xchg | .addR _ | .adcR _ | .subR _ | .sbbR _ | .daa | .anaR _ | .xraR _ | .oraR _ | .cmpR _ | .rlc | .rrc
  | .ral | .rar | .cma | .cmc | .stc | .ei | .di | .nop => some 4
  | .inx _ | .dcx _ | .pchl | .sphl => match v with | .v8085A => some 6 | .v8080A => some 5
  | .call _ => match v with | .v8085A => some 18 | .v8080A => some 17
  | .rst _ | .push _ | .pushPsw => match v with | .v8085A => some 12 | .v8080A => some 11
  | .xthl => match v with | .v8085A => some 16 | .v8080A => some 18
  | .hlt => match v with | .v8085A => some 5 | .v8080A => some 7
  | .rim | .sim => match v with | .v8085A => some 4 | .v8080A => none
  | .jnz _ | .jz _ | .jnc _ | .jc _ | .jpo _ | .jpe _ | .jp _ | .jm _ =>
    match v with | .v8085A => some (if taken then 10 else 7) | .v8080A => some 10
  | .cnz _ | .cz _ | .cnc _ | .cc _ | .cpo _ | .cpe _ | .cp _ | .cm _ =>
    match v with | .v8085A => some (if taken then 18 else 9) | .v8080A => some (if taken then 17 else 11)
  | .rnz | .rz | .rnc | .rc | .rpo | .rpe | .rp | .rm =>
    match v with | .v8085A => some (if taken then 12 else 6) | .v8080A => some (if taken then 11 else 5)
  | .undef08 | .undef10 | .undef18 | .undef28 | .undef38 | .undefCB | .undefD9 | .undefDD | .undefED | .undefFD => none

/-- The machine cycles of an instruction (R283, R285); on the 8080A a conditional jump or call that is not taken still
reads byte 3 (marks † and • of R284). Empty for the undefined first bytes. -/
def machineCyclesOf (v : Variant) (taken : Bool) : Instr → List MachineCycle
  | .movRR _ _ | .xchg | .addR _ | .adcR _ | .subR _ | .sbbR _ | .inrR _ | .dcrR _ | .daa | .anaR _ | .xraR _
  | .oraR _ | .cmpR _ | .rlc | .rrc | .ral | .rar | .cma | .cmc | .stc | .ei | .di | .nop | .rim | .sim => [.fetch4]
  | .movRM _ | .mviR _ _ | .ldax _ | .addM | .adi _ | .adcM | .aci _ | .subM | .sui _ | .sbbM | .sbi _ | .anaM
  | .ani _ | .xraM | .xri _ | .oraM | .ori _ | .cmpM | .cpi _ => [.fetch4, .memRead]
  | .movMR _ | .stax _ => [.fetch4, .memWrite]
  | .mviM _ | .inrM | .dcrM => [.fetch4, .memRead, .memWrite]
  | .lxi _ _ | .jmp _ | .ret | .pop _ | .popPsw => [.fetch4, .memRead, .memRead]
  | .lda _ => [.fetch4, .memRead, .memRead, .memRead]
  | .sta _ => [.fetch4, .memRead, .memRead, .memWrite]
  | .lhld _ => [.fetch4, .memRead, .memRead, .memRead, .memRead]
  | .shld _ | .xthl => [.fetch4, .memRead, .memRead, .memWrite, .memWrite]
  | .inx _ | .dcx _ | .pchl | .sphl => [.fetch6]
  | .dad _ => [.fetch4, .busIdle, .busIdle]
  | .call _ => [.fetch6, .memRead, .memRead, .memWrite, .memWrite]
  | .rst _ | .push _ | .pushPsw => [.fetch6, .memWrite, .memWrite]
  | .inPort _ => [.fetch4, .memRead, .ioRead]
  | .outPort _ => [.fetch4, .memRead, .ioWrite]
  | .hlt => [.fetch4, .busIdle]
  | .jnz _ | .jz _ | .jnc _ | .jc _ | .jpo _ | .jpe _ | .jp _ | .jm _ =>
    if taken || decide (v = .v8080A) then [.fetch4, .memRead, .memRead] else [.fetch4, .memRead]
  | .cnz _ | .cz _ | .cnc _ | .cc _ | .cpo _ | .cpe _ | .cp _ | .cm _ =>
    if taken then [.fetch6, .memRead, .memRead, .memWrite, .memWrite] else if v = .v8080A then [.fetch6, .memRead, .memRead] else [.fetch6, .memRead]
  | .rnz | .rz | .rnc | .rc | .rpo | .rpe | .rp | .rm => if taken then [.fetch6, .memRead, .memRead] else [.fetch6]
  | .undef08 | .undef10 | .undef18 | .undef28 | .undef38 | .undefCB | .undefD9 | .undefDD | .undefED | .undefFD => []

/-- The instructions whose opcode fetch takes five clock periods on the 8080A, the mark * of R284. -/
def fiveClockFetchOn8080 : Instr → Bool
  | .movRR _ _ | .inrR _ | .dcrR _ | .inx _ | .dcx _ | .pchl | .sphl | .call _ | .push _ | .pushPsw | .rst _ => true
  | .cnz _ | .cz _ | .cnc _ | .cc _ | .cpo _ | .cpe _ | .cp _ | .cm _ => true
  | .rnz | .rz | .rnc | .rc | .rpo | .rpe | .rp | .rm => true
  | _ => false

/-- The clock periods of an opcode fetch, F (four) or S (six) on the 8085A and where there is no mark *, five on the 8080A
where there is one (R284). -/
def fetchPeriods (v : Variant) (i : Instr) (letter : Nat) : Nat :=
  match v with
  | .v8085A => letter
  | .v8080A => if fiveClockFetchOn8080 i then 5 else letter

/-- The clock periods of a bus-idle cycle, B: the one of `HLT` takes 1 on the 8085A and 3 on the 8080A, each of the two of
`DAD`, the only other instruction that has any, takes 3 (R284). -/
def idlePeriods (v : Variant) : Instr → Nat
  | .hlt =>
    match v with
    | .v8085A => 1
    | .v8080A => 3
  | _ => 3

/-- The clock periods of a machine cycle of an instruction on a part (R284). -/
def clockPeriods (v : Variant) (i : Instr) : MachineCycle → Nat
  | .fetch4 => fetchPeriods v i 4
  | .fetch6 => fetchPeriods v i 6
  | .memRead => 3
  | .ioRead => 3
  | .memWrite => 3
  | .ioWrite => 3
  | .busIdle => idlePeriods v i

/-- The clock periods of all machine cycles of an instruction together. It is the T states of R283 but for `XTHL` on the
8080A, where the table has 18 and its five letters make 16 (log 26). -/
def cyclePeriods (v : Variant) (taken : Bool) (i : Instr) : Nat :=
  ((machineCyclesOf v taken i).map (clockPeriods v i)).sum

end Sys2Proof.Machine
end

