-- ==== Sys2Proof/Machine/Observer.lean ====
section
/-! DEFINITION. The T-state counter that 70_reset_and_hazards.md R286 allows as an observer, and the quiet boundary that
`withFetchWord` uses. -/

namespace Sys2Proof.Machine

/-- Whether a conditional instruction is taken with these flags; true for every other instruction. -/
def isTaken (f : Flags) (i : Instr) : Bool :=
  match condOfInstr i with
  | some k => condHolds f k
  | none => true

/-- The observer adds the figure of R283 for the instruction just executed from the state `before`; an interrupt entry and
a step spent halted add nothing, since the source gives no figure (R286, log 26). -/
def State.countTStates (t : State) (i : Instr) (before : State) : State :=
  { t with
    tStates := t.tStates + (tStatesOf before.platform.variant (isTaken before.flags i) i).getD 0 }

/-- The state with its next boundary shut by IntInhibit where that boundary would accept an interrupt (R237). -/
def State.quietBoundary (s : State) : State :=
  match s.boundaryInput with
  | .reset => s
  | .query q =>
    match acceptedSource (s.latchEdge q) q with
    | some _ => s.setCtl { s.ctl with intInhibit := true }
    | none => s

end Sys2Proof.Machine
end

