-- ==== Sys2Proof/Machine/Step.lean ====
section
/-! DEFINITION. The step of 00_scope.md R12: boundary, fetch, PC advance, operation, interrupt-enable bookkeeping. -/

namespace Sys2Proof.Machine

/-- Items 3 to 6 of R12: the instruction at PC is fetched and run; `e` of item 6 is EIpend at the fetch. -/
def State.runNext (s : State) : Result :=
  let f := s.fetch
  match exec f.1 f.2 with
  | .next t => .next ((t.enableBookkeeping f.1 s.ctl.eiPend).countTStates f.1 s)
  | .fault r => .fault r
  | .refused r => .refused r

/-- One step (R12). A reset asserted by the environment replaces everything else (R239, R270); an accepted interrupt
replaces the fetch (R236); a halted processor fetches nothing (item 1). -/
def step (s : State) : Host.Outcome State Fault Refusal :=
  match s.boundaryInput with
  | .reset => .next s.useBoundaryInput.resetEvent
  | .query q =>
    let s1 := s.useBoundaryInput.latchEdge q
    match acceptedSource s1 q with
    | some src => s1.enterInterrupt q src
    | none => if s1.ctl.halted then .next s1 else s1.runNext

/-- `s` with an instruction, whose bits are `w` as the opcode table numbers them, placed at PC so that the very next step
fetches and runs it: its bytes in RAM (the bits at `nbits` and above 0), the processor not halted, and the boundary quiet
(no reset asserted; IntInhibit set, as after `EI` or `DI`, only where an interrupt would be accepted). Log 27. -/
def State.withFetchWord (s : State) (nbits w : Nat) : State :=
  let v := w % 2 ^ nbits
  let s1 := ((s.placeByte s.pc (BitVec.ofNat 8 v)).placeByte (s.pc + 1) (BitVec.ofNat 8 (v / 256))).placeByte (s.pc + 2)
    (BitVec.ofNat 8 (v / 65536))
  let s2 := { s1 with ctl := { s1.ctl with halted := false } }
  match s2.boundaryInput with
  | .reset => { s2 with env := { s2.env with boundary := .query IntQuery.idle :: s2.env.boundary } }.quietBoundary
  | .query _ => s2.quietBoundary

end Sys2Proof.Machine
end

