-- ==== Sys2Proof/Safety.lean ====
section
/-! DEFINITION. What counts as a good state and a safe run, and the words in which claims say what an instruction does,
what it leaves alone, and what a step does at its boundary. -/

namespace Sys2Proof.Machine

/-! ## Good states and safe runs -/

/-- The invariant of the machine: RAM in its canonical form; IntInhibit is 0 while halted (60_exceptions.md R237); EIpend is
1 only at the boundary after an `EI`, where IntInhibit is 1 too (44_stack_io_control.md R209). -/
abbrev State.Inv (s : State) : Prop :=
  s.mem.wf ∧ (s.ctl.halted = true → s.ctl.intInhibit = false) ∧ (s.ctl.eiPend = true → s.ctl.intInhibit = true)

/-- A run of `k` steps that meets no refusal: it never fetches an undefined opcode and never meets a prohibited
acknowledge (30_encoding.md R80, 60_exceptions.md R245). -/
def SafeFor (k : Nat) (s : State) : Prop := ∃ t, Sys2Proof.core.run k s = .next t

/-! ## What an instruction does -/

/-- `exec i s` answers a next state, and `post` holds of it. -/
def Completes (i : Instr) (s : State) (post : State → Prop) : Prop := ∃ t, exec i s = .next t ∧ post t

/-- The encoding and timing lines of an instruction's rule: its bytes, how many machine cycles it has, its T states on the
8085A and on the 8080A (70_reset_and_hazards.md R283). -/
def RowOf (i : Instr) (bytes : List Byte) (cycles t85 t80 : Nat) : Prop :=
  encode i = bytes ∧
    ∀ taken, (∀ v, (machineCyclesOf v taken i).length = cycles) ∧
      tStatesOf .v8085A taken i = some t85 ∧ tStatesOf .v8080A taken i = some t80

/-- The same for an instruction of the 8085A alone; the 8080A has no figure (30_encoding.md R81). -/
def RowOf85 (i : Instr) (bytes : List Byte) (cycles t85 : Nat) : Prop :=
  encode i = bytes ∧
    ∀ taken, (machineCyclesOf .v8085A taken i).length = cycles ∧
      tStatesOf .v8085A taken i = some t85 ∧ tStatesOf .v8080A taken i = none

/-- The same for a conditional instruction: cycles and T states not taken and taken, on each part (R285). -/
def CondRowOf (i : Instr) (bytes : List Byte) (not85 taken85 not80 taken80 : Nat × Nat) : Prop :=
  encode i = bytes ∧
    ((machineCyclesOf .v8085A false i).length = not85.1 ∧ tStatesOf .v8085A false i = some not85.2) ∧
    ((machineCyclesOf .v8085A true i).length = taken85.1 ∧ tStatesOf .v8085A true i = some taken85.2) ∧
    ((machineCyclesOf .v8080A false i).length = not80.1 ∧ tStatesOf .v8080A false i = some not80.2) ∧
    ((machineCyclesOf .v8080A true i).length = taken80.1 ∧ tStatesOf .v8080A true i = some taken80.2)

/-! ## What it leaves alone -/

/-- The parts of the state a frame may except. -/
inductive Part where
  | sp | pc | flags | ctl | mem | env
deriving DecidableEq, Repr

/-- Every byte of RAM outside the list of addresses reads as before. -/
def KeepsMemBut (as : List Word) (s t : State) : Prop := ∀ a, a ∉ as → t.mem.read a.toNat = s.mem.read a.toNat

/-- The frame: every register outside `rs` and every part of the state outside `parts` is unchanged; memory is unchanged at
every address. The platform and the T-state observer never change in an instruction. -/
def KeepsBut (parts : List Part) (rs : List Reg) (s t : State) : Prop :=
  (∀ r, r ∉ rs → t.reg r = s.reg r) ∧
    (Part.sp ∉ parts → t.sp = s.sp) ∧
    (Part.pc ∉ parts → t.pc = s.pc) ∧
    (Part.flags ∉ parts → t.flags = s.flags) ∧
    (Part.ctl ∉ parts → t.ctl = s.ctl) ∧
    (Part.mem ∉ parts → KeepsMemBut [] s t) ∧
    (Part.env ∉ parts → t.env = s.env) ∧
    t.platform = s.platform ∧ t.tStates = s.tStates

/-- RAM after the stores of the listed bytes: a location that is `ram` holds the byte, any other location is as it was, and
so is every address outside the list (20_memory.md R54; that `rom` and `absent` drop the byte is the spec's D5, log 12). -/
def StoresBytes (ps : List (Word × Byte)) (s t : State) : Prop :=
  (∀ p ∈ ps, t.mem.read p.1.toNat = if kindAt s.platform p.1 = .ram then p.2 else s.mem.read p.1.toNat) ∧
    KeepsMemBut (ps.map Prod.fst) s t

/-- The output events of the stores of the listed bytes, in order: one for each location that is a device (20_memory.md R54;
D5, log 12). -/
def deviceEvents (p : Platform) : List (Word × Byte) → List Event
  | [] => []
  | (a, v) :: rest => (if kindAt p a = .device then [.deviceWrite a v] else []) ++ deviceEvents p rest

/-- The registers of a pair. -/
def regsOfPair : Pair → List Reg
  | .bc => [.b, .c]
  | .de => [.d, .e]
  | .hl => [.h, .l]
  | .sp => []

/-! ## Flags, in the words of the rules -/

/-- Z, S and P by the standard rules (10_state.md R26): the result is 0; its top bit is 1; it has an even number of 1
bits. -/
def ZspOf (result : Byte) (f : Flags) : Prop :=
  (f.z = true ↔ result = 0#8) ∧ (f.s = true ↔ 128 ≤ result.toNat) ∧
    (f.p = true ↔ (List.range 8).countP (fun i => result.getLsbD i) % 2 = 0)

/-- The result and the flags of `a + b + c` (R27): the sum modulo 256, CY the carry out of bit 7, AC the carry out of bit
3. -/
def SumOf (a b : Byte) (c : Bool) (result : Byte) (f : Flags) : Prop :=
  result.toNat = (a.toNat + b.toNat + c.toNat) % 256 ∧
    (f.cy = true ↔ 256 ≤ a.toNat + b.toNat + c.toNat) ∧
    (f.ac = true ↔ 16 ≤ a.toNat % 16 + b.toNat % 16 + c.toNat) ∧ ZspOf result f

/-- The result and the flags of `a - b - c` (R28) but for AC: the difference modulo 256, CY a borrow. -/
def DifferenceOf (a b : Byte) (c : Bool) (result : Byte) (f : Flags) : Prop :=
  (result.toNat : Int) = ((a.toNat : Int) - b.toNat - c.toNat) % 256 ∧
    (f.cy = true ↔ a.toNat < b.toNat + c.toNat) ∧ ZspOf result f

/-- The byte that holds a number below 100 as two decimal digits (41_arithmetic.md R140). -/
def bcd (n : Nat) : Byte := BitVec.ofNat 8 (n / 10 * 16 + n % 10)

/-! ## What a step does at its boundary -/

/-- The state after the boundary's query has been used: the input is gone from the list, an edge of RST 7.5 is latched
(60_exceptions.md R234, R236). -/
def State.afterBoundary (s : State) : State :=
  match s.boundaryInput with
  | .query q => s.useBoundaryInput.latchEdge q
  | .reset => s.useBoundaryInput

/-- The boundary asserts no reset and accepts no interrupt. -/
def BoundaryPasses (s : State) : Prop :=
  ∃ q, s.boundaryInput = .query q ∧ acceptedSource s.afterBoundary q = none

/-- The step of `s` fetches: the boundary passes and the processor is not halted (00_scope.md R12). -/
def Fetches (s : State) : Prop := BoundaryPasses s ∧ s.ctl.halted = false

/-- The boundary of `s` accepts `src` under the query `q`. -/
def Accepts (s : State) (q : IntQuery) (src : IntSource) : Prop :=
  s.boundaryInput = .query q ∧ acceptedSource s.afterBoundary q = some src

/-- `n` bytes read from `a` on, one after the other, and the state after the reads (00_scope.md R12 item 3). -/
def State.readBytes (s : State) (a : Word) : Nat → List Byte × State
  | 0 => ([], s)
  | n + 1 =>
    let m := s.memRead a
    let r := m.2.readBytes (a + 1) n
    (m.1 :: r.1, r.2)

/-- How many bytes the fetch of `i` reads: all, but two of the three of a conditional jump or call that an 8085A does not
take (43_branch.md R183, R185, log 28). -/
def bytesRead (s : State) (i : Instr) : Nat :=
  if s.platform.variant = .v8085A ∧ isTaken s.flags i = false ∧ (encode i).length = 3 then 2 else (encode i).length

/-- What the step answers once the bytes of `i` are read: `exec i` of the state `u` after the reads with PC past `i` (the
order is the spec's D2, log 35), then the interrupt-enable bookkeeping (D9, log 21) and the T-state observer (log 26). -/
def runsOn (s : State) (i : Instr) (u : State) : Result :=
  match exec i (u.setPc (s.pc + BitVec.ofNat 16 (encode i).length)) with
  | .next t => .next ((t.enableBookkeeping i s.ctl.eiPend).countTStates i s.afterBoundary)
  | .fault r => .fault r
  | .refused r => .refused r

/-- An address where memory answers: RAM or ROM. -/
def PlainAt (s : State) (a : Word) : Prop := kindAt s.platform a = .ram ∨ kindAt s.platform a = .rom

/-- The byte `MemRead` delivers. -/
def State.byteAt (s : State) (a : Word) : Byte := (s.memRead a).1

end Sys2Proof.Machine
end

