-- ==== Sys2Proof/Certificates/Slice0/Obligations.lean ====
section
/-! DEFINITION. The statements for the provers, from the numbered rules of spec/. -/

open Sys2Proof Sys2Proof.Machine

/-! ## Encoding -/

/-- Every instruction, with every operand, is read back from its bytes, whatever follows them (R71, R76, R87). -/
def Obligations.DecodeOfEncode : Prop :=
  ∀ (i : Instr) (rest : List Byte), decode (encode i ++ rest) = .ok (i, rest)

/-- The other direction: bytes that decode are the encoding of what they decode to, so no bit is ignored. -/
def Obligations.EncodeOfDecode : Prop :=
  ∀ (bs rest : List Byte) (i : Instr), decode bs = .ok (i, rest) → bs = encode i ++ rest

/-- R78: for every defined opcode byte 1 alone says how many bytes are read, by the formula of the rule; a list too short
for it is truncated. The ten undefined values have no length in the source, so nothing is said of them. -/
def Obligations.LengthFromFirstByte : Prop :=
  ∀ (op : Byte) (rest : List Byte),
    op ∉ [0x08#8, 0x10#8, 0x18#8, 0x28#8, 0x38#8, 0xCB#8, 0xD9#8, 0xDD#8, 0xED#8, 0xFD#8] →
    (opLength op ≤ rest.length + 1 → ∃ i, decode (op :: rest) = .ok (i, rest.drop (opLength op - 1)) ∧
      (encode i).length = opLength op) ∧
    (rest.length + 1 < opLength op → decode (op :: rest) = .error (.truncated op))

/-- R80, R81: of the 256 first bytes exactly ten are no instruction of either part, and two more none of the 8080A. -/
def Obligations.UndefinedFirstBytes : Prop :=
  ∀ op byte2 byte3 : Byte, ∃ (i : Instr) (rest : List Byte), decode [op, byte2, byte3] = .ok (i, rest) ∧
    (i.wellFormed .v8085A = false ↔
      op ∈ [0x08#8, 0x10#8, 0x18#8, 0x28#8, 0x38#8, 0xCB#8, 0xD9#8, 0xDD#8, 0xED#8, 0xFD#8]) ∧
    (i.wellFormed .v8080A = false ↔
      op ∈ [0x08#8, 0x10#8, 0x18#8, 0x28#8, 0x38#8, 0xCB#8, 0xD9#8, 0xDD#8, 0xED#8, 0xFD#8, 0x20#8, 0x30#8])

/-- A word of each family, written out from the map of R79. -/
def Obligations.WordsOfTheOpcodeMap : Prop :=
  decode [0x41#8] = .ok (.movRR .b .c, []) ∧
  decode [0x21#8, 0x34#8, 0x12#8] = .ok (.lxi .hl 0x1234#16, []) ∧
  decode [0xDE#8, 0xFF#8] = .ok (.sbi 0xFF#8, []) ∧
  decode [0xBB#8] = .ok (.cmpR .e, []) ∧
  decode [0xDC#8, 0x00#8, 0x20#8] = .ok (.cc 0x2000#16, []) ∧
  decode [0xD7#8] = .ok (.rst 2#3, []) ∧
  decode [0xDB#8, 0x10#8] = .ok (.inPort 0x10#8, []) ∧
  decode [0x76#8] = .ok (.hlt, [])

/-! ## The step -/

/-- Where the boundary lets it, the step reads the bytes of an instruction from PC on, one after the other, and runs it
(`runsOn`). First, wherever the bytes lie: `i` is what the bytes read decode to, where an 8085A that does not take a
conditional jump or call reads only two of its three bytes, and the third may be anything (R183, R185, log 28). Then, where
the bytes of `i` are RAM or ROM, in which a read changes nothing. R12 lists the items; their order is the spec's decision D2
(log 35), item 6 is its decision D9 (log 21), the wrap-around of PC its D1 (log 19), and the T-state observer is the model's
(log 26). -/
def Obligations.StepRunsTheDecodedInstruction : Prop :=
  ∀ (s : State) (i : Instr) (rest : List Byte), Fetches s →
    (∀ bs u, s.afterBoundary.readBytes s.pc (bytesRead s i) = (bs, u) → decode (bs ++ rest) = .ok (i, []) →
      step s = runsOn s i u) ∧
    ((∀ k, k < (encode i).length → PlainAt s (s.pc + BitVec.ofNat 16 k)) →
      decode [s.byteAt s.pc, s.byteAt (s.pc + 1), s.byteAt (s.pc + 2)] = .ok (i, rest) →
      step s = runsOn s i s.afterBoundary)

/-- R230: no instruction can fault, trap or be refused by the hardware. The model refuses exactly what is no instruction of
the part, and names the first byte. -/
def Obligations.EveryInstructionCompletes : Prop :=
  ∀ (i : Instr) (s : State),
    (i.wellFormed s.platform.variant = true → ∃ t, exec i s = .next t) ∧
    (i.wellFormed s.platform.variant = false →
      ∃ op, exec i s = .refused (.undefinedOpcode op) ∧ encode i = [op])

/-- R80, R81: each of the ten undefined first bytes is refused, and on the 8080A `RIM` and `SIM` like them. -/
def Obligations.UndefinedOpcodesAreRefused : Prop :=
  ∀ s : State,
    exec .undef08 s = .refused (.undefinedOpcode 0x08#8) ∧ exec .undef10 s = .refused (.undefinedOpcode 0x10#8) ∧
    exec .undef18 s = .refused (.undefinedOpcode 0x18#8) ∧ exec .undef28 s = .refused (.undefinedOpcode 0x28#8) ∧
    exec .undef38 s = .refused (.undefinedOpcode 0x38#8) ∧ exec .undefCB s = .refused (.undefinedOpcode 0xCB#8) ∧
    exec .undefD9 s = .refused (.undefinedOpcode 0xD9#8) ∧ exec .undefDD s = .refused (.undefinedOpcode 0xDD#8) ∧
    exec .undefED s = .refused (.undefinedOpcode 0xED#8) ∧ exec .undefFD s = .refused (.undefinedOpcode 0xFD#8) ∧
    (s.platform.variant = .v8080A →
      exec .rim s = .refused (.undefinedOpcode 0x20#8) ∧ exec .sim s = .refused (.undefinedOpcode 0x30#8))

/-! ## Data transfer -/

/-- R101, R104: `MOV r1,r2` and `MVI r,data`. -/
def Obligations.MovAndMviWriteOneRegister : Prop :=
  ∀ (s : State) (r1 r2 : Reg) (data : Byte),
    (Completes (.movRR r1 r2) s (fun t => t.reg r1 = s.reg r2 ∧ KeepsBut [] [r1] s t) ∧
      RowOf (.movRR r1 r2) [0b01#2 ++ regCode r1 ++ regCode r2] 1 4 5) ∧
    (Completes (.mviR r1 data) s (fun t => t.reg r1 = data ∧ KeepsBut [] [r1] s t) ∧
      RowOf (.mviR r1 data) [0b00#2 ++ regCode r1 ++ 0b110#3, data] 2 7 7)

/-- R102, R107, R111: `MOV r,M`, `LDA`, `LDAX`. -/
def Obligations.LoadsReadOneByte : Prop :=
  ∀ (s : State) (r : Reg) (addr : Word) (rp : IndexPair),
    (Completes (.movRM r) s (fun t => t.reg r = s.byteAt s.hl ∧
        KeepsBut [.env] [r] s t ∧ t.env = (s.memRead s.hl).2.env) ∧
      RowOf (.movRM r) [0b01#2 ++ regCode r ++ 0b110#3] 2 7 7) ∧
    (Completes (.lda addr) s (fun t => t.regs.a = s.byteAt addr ∧
        KeepsBut [.env] [.a] s t ∧ t.env = (s.memRead addr).2.env) ∧
      RowOf (.lda addr) [0x3A#8, lowByte addr, highByte addr] 4 13 13) ∧
    (Completes (.ldax rp) s (fun t => t.regs.a = s.byteAt (s.pair (pairOfIndexPair rp)) ∧
        KeepsBut [.env] [.a] s t ∧ t.env = (s.memRead (s.pair (pairOfIndexPair rp))).2.env) ∧
      RowOf (.ldax rp) [0b000#3 ++ indexPairCode rp ++ 0b1010#4] 2 7 7)

/-- R103, R105, R108, R112: `MOV M,r`, `MVI M,data`, `STA`, `STAX`. That a ROM or absent location drops the byte and a device
sees it is the spec's decision D5 (R54, log 12). -/
def Obligations.StoresWriteOneByte : Prop :=
  ∀ (s : State) (r : Reg) (data : Byte) (addr : Word) (rp : IndexPair),
    (Completes (.movMR r) s (fun t => StoresBytes [(s.hl, s.reg r)] s t ∧
        KeepsBut [.mem, .env] [] s t ∧ t.env = (s.memWrite s.hl (s.reg r)).env) ∧
      RowOf (.movMR r) [0b01110#5 ++ regCode r] 2 7 7) ∧
    (Completes (.mviM data) s (fun t => StoresBytes [(s.hl, data)] s t ∧
        KeepsBut [.mem, .env] [] s t ∧ t.env = (s.memWrite s.hl data).env) ∧
      RowOf (.mviM data) [0x36#8, data] 3 10 10) ∧
    (Completes (.sta addr) s (fun t => StoresBytes [(addr, s.regs.a)] s t ∧
        KeepsBut [.mem, .env] [] s t ∧ t.env = (s.memWrite addr s.regs.a).env) ∧
      RowOf (.sta addr) [0x32#8, lowByte addr, highByte addr] 4 13 13) ∧
    (Completes (.stax rp) s (fun t => StoresBytes [(s.pair (pairOfIndexPair rp), s.regs.a)] s t ∧
        KeepsBut [.mem, .env] [] s t ∧ t.env = (s.memWrite (s.pair (pairOfIndexPair rp)) s.regs.a).env) ∧
      RowOf (.stax rp) [0b000#3 ++ indexPairCode rp ++ 0b0010#4] 2 7 7)

/-- R106, R113: `LXI` and `XCHG`. -/
def Obligations.LxiAndXchgWritePairs : Prop :=
  ∀ (s : State) (rp : Pair) (data : Word),
    (Completes (.lxi rp data) s (fun t => t.pair rp = data ∧
        KeepsBut (if rp = .sp then [.sp] else []) (regsOfPair rp) s t) ∧
      RowOf (.lxi rp data) [0b00#2 ++ pairCode rp ++ 0b0001#4, lowByte data, highByte data] 3 10 10) ∧
    (Completes .xchg s (fun t => t.regs.h = s.regs.d ∧ t.regs.l = s.regs.e ∧ t.regs.d = s.regs.h ∧ t.regs.e = s.regs.l ∧
        KeepsBut [] [.h, .l, .d, .e] s t) ∧
      RowOf .xchg [0xEB#8] 1 4 4)

/-- R109, R110: `LHLD` and `SHLD`, the second address modulo 65,536 (D1, log 19), the order of the two accesses as D4 has it
(log 20): both are the spec's own decisions, and so is that a ROM or absent location drops a byte `SHLD` stores and a device
sees it (R54, D5, log 12). -/
def Obligations.LhldAndShldMoveTwoBytes : Prop :=
  ∀ (s : State) (addr : Word),
    (Completes (.lhld addr) s (fun t =>
        t.regs.l = s.byteAt addr ∧ t.regs.h = (s.memRead addr).2.byteAt (addr + 1) ∧
        KeepsBut [.env] [.h, .l] s t ∧ t.env = ((s.memRead addr).2.memRead (addr + 1)).2.env) ∧
      RowOf (.lhld addr) [0x2A#8, lowByte addr, highByte addr] 5 16 16) ∧
    (Completes (.shld addr) s (fun t =>
        StoresBytes [(addr, s.regs.l), (addr + 1, s.regs.h)] s t ∧
        KeepsBut [.mem, .env] [] s t ∧ t.env = ((s.memWrite addr s.regs.l).memWrite (addr + 1) s.regs.h).env) ∧
      RowOf (.shld addr) [0x22#8, lowByte addr, highByte addr] 5 16 16)

/-! ## Arithmetic -/

/-- R121 to R126: the six additions, in exact arithmetic. -/
def Obligations.AdditionsAreExact : Prop :=
  ∀ (s : State) (r : Reg) (data : Byte),
    (Completes (.addR r) s (fun t => SumOf s.regs.a (s.reg r) false t.regs.a t.flags ∧ KeepsBut [.flags] [.a] s t) ∧
      RowOf (.addR r) [0b10000#5 ++ regCode r] 1 4 4) ∧
    (Completes .addM s (fun t => SumOf s.regs.a (s.byteAt s.hl) false t.regs.a t.flags ∧
        KeepsBut [.flags, .env] [.a] s t ∧ t.env = (s.memRead s.hl).2.env) ∧ RowOf .addM [0x86#8] 2 7 7) ∧
    (Completes (.adi data) s (fun t => SumOf s.regs.a data false t.regs.a t.flags ∧ KeepsBut [.flags] [.a] s t) ∧
      RowOf (.adi data) [0xC6#8, data] 2 7 7) ∧
    (Completes (.adcR r) s (fun t => SumOf s.regs.a (s.reg r) s.flags.cy t.regs.a t.flags ∧
        KeepsBut [.flags] [.a] s t) ∧ RowOf (.adcR r) [0b10001#5 ++ regCode r] 1 4 4) ∧
    (Completes .adcM s (fun t => SumOf s.regs.a (s.byteAt s.hl) s.flags.cy t.regs.a t.flags ∧
        KeepsBut [.flags, .env] [.a] s t ∧ t.env = (s.memRead s.hl).2.env) ∧ RowOf .adcM [0x8E#8] 2 7 7) ∧
    (Completes (.aci data) s (fun t => SumOf s.regs.a data s.flags.cy t.regs.a t.flags ∧ KeepsBut [.flags] [.a] s t) ∧
      RowOf (.aci data) [0xCE#8, data] 2 7 7)

/-- The six subtractions, in exact arithmetic: result, CY as a borrow, Z, S, P; with their encoding and timing lines. What AC
becomes is `SubtractionAuxiliaryCarry`. -/
def Obligations.SubtractionsAreExact : Prop :=
  ∀ (s : State) (r : Reg) (data : Byte),
    (Completes (.subR r) s (fun t => DifferenceOf s.regs.a (s.reg r) false t.regs.a t.flags ∧
        KeepsBut [.flags] [.a] s t) ∧ RowOf (.subR r) [0b10010#5 ++ regCode r] 1 4 4) ∧
    (Completes .subM s (fun t => DifferenceOf s.regs.a (s.byteAt s.hl) false t.regs.a t.flags ∧
        KeepsBut [.flags, .env] [.a] s t ∧ t.env = (s.memRead s.hl).2.env) ∧ RowOf .subM [0x96#8] 2 7 7) ∧
    (Completes (.sui data) s (fun t => DifferenceOf s.regs.a data false t.regs.a t.flags ∧ KeepsBut [.flags] [.a] s t) ∧
      RowOf (.sui data) [0xD6#8, data] 2 7 7) ∧
    (Completes (.sbbR r) s (fun t => DifferenceOf s.regs.a (s.reg r) s.flags.cy t.regs.a t.flags ∧
        KeepsBut [.flags] [.a] s t) ∧ RowOf (.sbbR r) [0b10011#5 ++ regCode r] 1 4 4) ∧
    (Completes .sbbM s (fun t => DifferenceOf s.regs.a (s.byteAt s.hl) s.flags.cy t.regs.a t.flags ∧
        KeepsBut [.flags, .env] [.a] s t ∧ t.env = (s.memRead s.hl).2.env) ∧ RowOf .sbbM [0x9E#8] 2 7 7) ∧
    (Completes (.sbi data) s (fun t => DifferenceOf s.regs.a data s.flags.cy t.regs.a t.flags ∧
        KeepsBut [.flags] [.a] s t) ∧ RowOf (.sbi data) [0xDE#8, data] 2 7 7)

/-- The model's choice, after the spec's decision D3 (log 17): AC after every subtraction, comparison and decrement is 1
exactly when the low digit needs no borrow. -/
def Obligations.SubtractionAuxiliaryCarry : Prop :=
  ∀ (s : State) (r : Reg) (data : Byte),
    let noBorrow (a b : Byte) (c : Bool) (t : State) : Prop :=
      t.flags.ac = true ↔ b.toNat % 16 + c.toNat ≤ a.toNat % 16
    let a := s.regs.a
    let m := s.byteAt s.hl
    Completes (.subR r) s (noBorrow a (s.reg r) false) ∧ Completes .subM s (noBorrow a m false) ∧
    Completes (.sui data) s (noBorrow a data false) ∧
    Completes (.sbbR r) s (noBorrow a (s.reg r) s.flags.cy) ∧ Completes .sbbM s (noBorrow a m s.flags.cy) ∧
    Completes (.sbi data) s (noBorrow a data s.flags.cy) ∧
    Completes (.cmpR r) s (noBorrow a (s.reg r) false) ∧ Completes .cmpM s (noBorrow a m false) ∧
    Completes (.cpi data) s (noBorrow a data false) ∧
    Completes (.dcrR r) s (noBorrow (s.reg r) 0x01#8 false) ∧ Completes .dcrM s (noBorrow m 0x01#8 false)

/-- `INR` and `DCR` of a register and of memory (R133 to R136): all flags but CY; the memory forms make one read and one
write of `H :: L`, and their flags come from the result also where the write is dropped (D5, log 12). What AC becomes after
`DCR` rests on the spec's decision D3 (log 17) and is in `SubtractionAuxiliaryCarry`, not here. -/
def Obligations.InrAndDcrKeepCarry : Prop :=
  ∀ (s : State) (r : Reg),
    let m := s.byteAt s.hl
    (Completes (.inrR r) s (fun t => (t.reg r).toNat = ((s.reg r).toNat + 1) % 256 ∧ t.flags.cy = s.flags.cy ∧
        (t.flags.ac = true ↔ (s.reg r).toNat % 16 = 15) ∧ ZspOf (t.reg r) t.flags ∧ KeepsBut [.flags] [r] s t) ∧
      RowOf (.inrR r) [0b00#2 ++ regCode r ++ 0b100#3] 1 4 5) ∧
    (Completes (.dcrR r) s (fun t => (t.reg r).toNat = ((s.reg r).toNat + 255) % 256 ∧ t.flags.cy = s.flags.cy ∧
        ZspOf (t.reg r) t.flags ∧ KeepsBut [.flags] [r] s t) ∧
      RowOf (.dcrR r) [0b00#2 ++ regCode r ++ 0b101#3] 1 4 5) ∧
    (Completes .inrM s (fun t => ∃ v : Byte, v.toNat = (m.toNat + 1) % 256 ∧ t.flags.cy = s.flags.cy ∧
        (t.flags.ac = true ↔ m.toNat % 16 = 15) ∧ ZspOf v t.flags ∧ StoresBytes [(s.hl, v)] s t ∧
        KeepsBut [.flags, .mem, .env] [] s t ∧ t.env = ((s.memRead s.hl).2.memWrite s.hl v).env) ∧
      RowOf .inrM [0x34#8] 3 10 10) ∧
    (Completes .dcrM s (fun t => ∃ v : Byte, v.toNat = (m.toNat + 255) % 256 ∧ t.flags.cy = s.flags.cy ∧
        ZspOf v t.flags ∧ StoresBytes [(s.hl, v)] s t ∧ KeepsBut [.flags, .mem, .env] [] s t ∧
        t.env = ((s.memRead s.hl).2.memWrite s.hl v).env) ∧
      RowOf .dcrM [0x35#8] 3 10 10)

/-- R137, R138: `INX` and `DCX`, modulo 65,536 (D1, log 19), no flag. -/
def Obligations.InxAndDcxWrap : Prop :=
  ∀ (s : State) (rp : Pair),
    (Completes (.inx rp) s (fun t => (t.pair rp).toNat = ((s.pair rp).toNat + 1) % 65536 ∧
        KeepsBut (if rp = .sp then [.sp] else []) (regsOfPair rp) s t) ∧
      RowOf (.inx rp) [0b00#2 ++ pairCode rp ++ 0b0011#4] 1 6 5) ∧
    (Completes (.dcx rp) s (fun t => (t.pair rp).toNat = ((s.pair rp).toNat + 65535) % 65536 ∧
        KeepsBut (if rp = .sp then [.sp] else []) (regsOfPair rp) s t) ∧
      RowOf (.dcx rp) [0b00#2 ++ pairCode rp ++ 0b1011#4] 1 6 5)

/-- R139: `DAD`, for every pair, H itself and SP included. -/
def Obligations.DadAddsToHl : Prop :=
  ∀ (s : State) (rp : Pair),
    Completes (.dad rp) s (fun t => t.hl.toNat = (s.hl.toNat + (s.pair rp).toNat) % 65536 ∧
      t.flags = { s.flags with cy := decide (65536 ≤ s.hl.toNat + (s.pair rp).toNat) } ∧
      KeepsBut [.flags] [.h, .l] s t) ∧
    RowOf (.dad rp) [0b00#2 ++ pairCode rp ++ 0b1001#4] 3 10 10

/-- `DAA` in the one-line form R140 gives under the spec's decision D8 (log 18): 06H by the low digit or AC, 60H by the
high digit, CY or the carry between them; CY exactly when 60H was added. -/
def Obligations.DaaAddsSixAndSixty : Prop :=
  ∀ s : State,
    Completes .daa s (fun t =>
      let hi := s.regs.a.toNat / 16
      let lo := s.regs.a.toNat % 16
      let six := decide (9 < lo) || s.flags.ac
      let sixty := decide (9 < hi) || s.flags.cy || (decide (9 ≤ hi) && decide (9 < lo))
      t.regs.a.toNat = (s.regs.a.toNat + 6 * six.toNat + 96 * sixty.toNat) % 256 ∧
      t.flags.cy = sixty ∧ t.flags.ac = (six && decide (16 ≤ lo + 6)) ∧ ZspOf t.regs.a t.flags ∧
      KeepsBut [.flags] [.a] s t) ∧
    RowOf .daa [0x27#8] 1 4 4

/-- What `DAA` is for (R140, D8): after `ADC r` of two packed decimal numbers it leaves their decimal sum in A and the
hundreds in CY. -/
def Obligations.DecimalAddition : Prop :=
  ∀ (s : State) (r : Reg) (m n : Nat), m < 100 → n < 100 → s.regs.a = bcd m → s.reg r = bcd n →
    Completes (.adcR r) s (fun t => Completes .daa t (fun u =>
      u.regs.a = bcd ((m + n + s.flags.cy.toNat) % 100) ∧ u.flags.cy = decide (100 ≤ m + n + s.flags.cy.toNat)))

/-! ## Logical -/

/-- R152 to R154: AND, with AC by part. -/
def Obligations.AndByPart : Prop :=
  ∀ (s : State) (r : Reg) (data : Byte),
    let anded (b : Byte) (t : State) : Prop :=
      (∀ k, t.regs.a.getLsbD k = (s.regs.a.getLsbD k && b.getLsbD k)) ∧ ZspOf t.regs.a t.flags ∧ t.flags.cy = false ∧
      (s.platform.variant = .v8085A → t.flags.ac = true) ∧
      (s.platform.variant = .v8080A → t.flags.ac = (s.regs.a.getLsbD 3 || b.getLsbD 3))
    (Completes (.anaR r) s (fun t => anded (s.reg r) t ∧ KeepsBut [.flags] [.a] s t) ∧
      RowOf (.anaR r) [0b10100#5 ++ regCode r] 1 4 4) ∧
    (Completes .anaM s (fun t => anded (s.byteAt s.hl) t ∧ KeepsBut [.flags, .env] [.a] s t ∧
      t.env = (s.memRead s.hl).2.env) ∧ RowOf .anaM [0xA6#8] 2 7 7) ∧
    (Completes (.ani data) s (fun t => anded data t ∧ KeepsBut [.flags] [.a] s t) ∧
      RowOf (.ani data) [0xE6#8, data] 2 7 7)

/-- R155 to R160: exclusive OR and OR, CY and AC cleared. -/
def Obligations.XorAndOrClearCarries : Prop :=
  ∀ (s : State) (r : Reg) (data : Byte),
    let gives (f : Bool → Bool → Bool) (b : Byte) (t : State) : Prop :=
      (∀ k, k < 8 → t.regs.a.getLsbD k = f (s.regs.a.getLsbD k) (b.getLsbD k)) ∧ ZspOf t.regs.a t.flags ∧
      t.flags.cy = false ∧ t.flags.ac = false
    (Completes (.xraR r) s (fun t => gives xor (s.reg r) t ∧ KeepsBut [.flags] [.a] s t) ∧
      RowOf (.xraR r) [0b10101#5 ++ regCode r] 1 4 4) ∧
    (Completes .xraM s (fun t => gives xor (s.byteAt s.hl) t ∧ KeepsBut [.flags, .env] [.a] s t ∧
      t.env = (s.memRead s.hl).2.env) ∧ RowOf .xraM [0xAE#8] 2 7 7) ∧
    (Completes (.xri data) s (fun t => gives xor data t ∧ KeepsBut [.flags] [.a] s t) ∧
      RowOf (.xri data) [0xEE#8, data] 2 7 7) ∧
    (Completes (.oraR r) s (fun t => gives or (s.reg r) t ∧ KeepsBut [.flags] [.a] s t) ∧
      RowOf (.oraR r) [0b10110#5 ++ regCode r] 1 4 4) ∧
    (Completes .oraM s (fun t => gives or (s.byteAt s.hl) t ∧ KeepsBut [.flags, .env] [.a] s t ∧
      t.env = (s.memRead s.hl).2.env) ∧ RowOf .oraM [0xB6#8] 2 7 7) ∧
    (Completes (.ori data) s (fun t => gives or data t ∧ KeepsBut [.flags] [.a] s t) ∧
      RowOf (.ori data) [0xF6#8, data] 2 7 7)

/-- The comparisons (R161 to R163): Z says equal, CY says less as unsigned numbers, nothing but the flags changes. That `CPI`
leaves A alone too is the spec's own inference (R163, log 32). -/
def Obligations.ComparesAreUnsigned : Prop :=
  ∀ (s : State) (r : Reg) (data : Byte),
    let compared (b : Byte) (t : State) : Prop :=
      (t.flags.z = true ↔ s.regs.a = b) ∧ (t.flags.cy = true ↔ s.regs.a.toNat < b.toNat) ∧
      ∃ d : Byte, DifferenceOf s.regs.a b false d t.flags
    (Completes (.cmpR r) s (fun t => compared (s.reg r) t ∧ KeepsBut [.flags] [] s t) ∧
      RowOf (.cmpR r) [0b10111#5 ++ regCode r] 1 4 4) ∧
    (Completes .cmpM s (fun t => compared (s.byteAt s.hl) t ∧ KeepsBut [.flags, .env] [] s t ∧
        t.env = (s.memRead s.hl).2.env) ∧ RowOf .cmpM [0xBE#8] 2 7 7) ∧
    (Completes (.cpi data) s (fun t => compared data t ∧ KeepsBut [.flags] [] s t) ∧
      RowOf (.cpi data) [0xFE#8, data] 2 7 7)

/-- R164 to R167: the four rotates, bit by bit, CY alone among the flags. -/
def Obligations.RotatesMoveEveryBit : Prop :=
  ∀ s : State,
    (Completes .rlc s (fun t => (∀ k, k < 7 → t.regs.a.getLsbD (k + 1) = s.regs.a.getLsbD k) ∧
        t.regs.a.getLsbD 0 = s.regs.a.getLsbD 7 ∧ t.flags = { s.flags with cy := s.regs.a.getLsbD 7 } ∧
        KeepsBut [.flags] [.a] s t) ∧ RowOf .rlc [0x07#8] 1 4 4) ∧
    (Completes .rrc s (fun t => (∀ k, k < 7 → t.regs.a.getLsbD k = s.regs.a.getLsbD (k + 1)) ∧
        t.regs.a.getLsbD 7 = s.regs.a.getLsbD 0 ∧ t.flags = { s.flags with cy := s.regs.a.getLsbD 0 } ∧
        KeepsBut [.flags] [.a] s t) ∧ RowOf .rrc [0x0F#8] 1 4 4) ∧
    (Completes .ral s (fun t => (∀ k, k < 7 → t.regs.a.getLsbD (k + 1) = s.regs.a.getLsbD k) ∧
        t.regs.a.getLsbD 0 = s.flags.cy ∧ t.flags = { s.flags with cy := s.regs.a.getLsbD 7 } ∧
        KeepsBut [.flags] [.a] s t) ∧ RowOf .ral [0x17#8] 1 4 4) ∧
    (Completes .rar s (fun t => (∀ k, k < 7 → t.regs.a.getLsbD k = s.regs.a.getLsbD (k + 1)) ∧
        t.regs.a.getLsbD 7 = s.flags.cy ∧ t.flags = { s.flags with cy := s.regs.a.getLsbD 0 } ∧
        KeepsBut [.flags] [.a] s t) ∧ RowOf .rar [0x1F#8] 1 4 4)

/-- R168 to R170: `CMA`, `CMC`, `STC`. -/
def Obligations.ComplementAndCarry : Prop :=
  ∀ s : State,
    (Completes .cma s (fun t => (∀ k, k < 8 → t.regs.a.getLsbD k = !s.regs.a.getLsbD k) ∧ KeepsBut [] [.a] s t) ∧
      RowOf .cma [0x2F#8] 1 4 4) ∧
    (Completes .cmc s (fun t => t.flags = { s.flags with cy := !s.flags.cy } ∧ KeepsBut [.flags] [] s t) ∧
      RowOf .cmc [0x3F#8] 1 4 4) ∧
    (Completes .stc s (fun t => t.flags = { s.flags with cy := true } ∧ KeepsBut [.flags] [] s t) ∧
      RowOf .stc [0x37#8] 1 4 4)

/-! ## Branch -/

/-- R182, R189: `JMP` and `PCHL`. -/
def Obligations.UnconditionalJumps : Prop :=
  ∀ (s : State) (addr : Word),
    (Completes (.jmp addr) s (fun t => t.pc = addr ∧ KeepsBut [.pc] [] s t) ∧
      RowOf (.jmp addr) [0xC3#8, lowByte addr, highByte addr] 3 10 10) ∧
    (Completes .pchl s (fun t => highByte t.pc = s.regs.h ∧ lowByte t.pc = s.regs.l ∧ KeepsBut [.pc] [] s t) ∧
      RowOf .pchl [0xE9#8] 1 6 5)

/-- R180, R183: the eight conditional jumps. -/
def Obligations.ConditionalJumps : Prop :=
  ∀ (s : State) (addr : Word),
    let jumps (i : Instr) (op : Byte) (holds : Bool) : Prop :=
      Completes i s (fun t => t.pc = (if holds then addr else s.pc) ∧ KeepsBut [.pc] [] s t) ∧
      CondRowOf i [op, lowByte addr, highByte addr] (2, 7) (3, 10) (3, 10) (3, 10)
    jumps (.jnz addr) 0xC2#8 (!s.flags.z) ∧ jumps (.jz addr) 0xCA#8 s.flags.z ∧
    jumps (.jnc addr) 0xD2#8 (!s.flags.cy) ∧ jumps (.jc addr) 0xDA#8 s.flags.cy ∧
    jumps (.jpo addr) 0xE2#8 (!s.flags.p) ∧ jumps (.jpe addr) 0xEA#8 s.flags.p ∧
    jumps (.jp addr) 0xF2#8 (!s.flags.s) ∧ jumps (.jm addr) 0xFA#8 s.flags.s

/-- R184, R188: `CALL` and `RST` push the next instruction address and go to their target; that the stack addresses are modulo
65,536, and that a ROM or absent location drops a stacked byte and a device sees it, are the spec's decisions D1 (log 19) and
D5 (R54, log 12). -/
def Obligations.CallAndRstPushTheReturnAddress : Prop :=
  ∀ (s : State) (addr : Word) (n : BitVec 3),
    let called (target : Word) (t : State) : Prop :=
      t.pc = target ∧ t.sp = s.sp - 2 ∧ StoresBytes [(s.sp - 1, highByte s.pc), (s.sp - 2, lowByte s.pc)] s t ∧
      KeepsBut [.pc, .sp, .mem, .env] [] s t ∧
      t.env = ((s.memWrite (s.sp - 1) (highByte s.pc)).memWrite (s.sp - 2) (lowByte s.pc)).env
    (Completes (.call addr) s (called addr) ∧ RowOf (.call addr) [0xCD#8, lowByte addr, highByte addr] 5 18 17) ∧
    (Completes (.rst n) s (called (BitVec.ofNat 16 (8 * n.toNat))) ∧
      RowOf (.rst n) [0b11#2 ++ n ++ 0b111#3] 3 12 11)

/-- R185: the eight conditional calls: the actions of `CALL` where the condition holds, else control continues
sequentially with nothing else done; that the stack addresses are modulo 65,536, and that a ROM or absent location drops a
stacked byte and a device sees it, are the spec's decisions D1 (log 19) and D5 (R54, log 12). -/
def Obligations.ConditionalCalls : Prop :=
  ∀ (s : State) (addr : Word),
    let called (t : State) : Prop :=
      t.pc = addr ∧ t.sp = s.sp - 2 ∧ StoresBytes [(s.sp - 1, highByte s.pc), (s.sp - 2, lowByte s.pc)] s t ∧
      KeepsBut [.pc, .sp, .mem, .env] [] s t ∧
      t.env = ((s.memWrite (s.sp - 1) (highByte s.pc)).memWrite (s.sp - 2) (lowByte s.pc)).env
    let calls (i : Instr) (op : Byte) (holds : Bool) : Prop :=
      Completes i s (fun t => if holds then called t else t = s) ∧
      CondRowOf i [op, lowByte addr, highByte addr] (2, 9) (5, 18) (3, 11) (5, 17)
    calls (.cnz addr) 0xC4#8 (!s.flags.z) ∧ calls (.cz addr) 0xCC#8 s.flags.z ∧
    calls (.cnc addr) 0xD4#8 (!s.flags.cy) ∧ calls (.cc addr) 0xDC#8 s.flags.cy ∧
    calls (.cpo addr) 0xE4#8 (!s.flags.p) ∧ calls (.cpe addr) 0xEC#8 s.flags.p ∧
    calls (.cp addr) 0xF4#8 (!s.flags.s) ∧ calls (.cm addr) 0xFC#8 s.flags.s

/-- R186: `RET`; the second address and SP are modulo 65,536 (D1). -/
def Obligations.RetPopsTheProgramCounter : Prop :=
  ∀ s : State,
    Completes .ret s (fun t =>
      lowByte t.pc = s.byteAt s.sp ∧ highByte t.pc = (s.memRead s.sp).2.byteAt (s.sp + 1) ∧ t.sp = s.sp + 2 ∧
      KeepsBut [.pc, .sp, .env] [] s t ∧ t.env = ((s.memRead s.sp).2.memRead (s.sp + 1)).2.env) ∧
    RowOf .ret [0xC9#8] 3 10 10

/-- R187: the eight conditional returns: the actions of `RET` where the condition holds, else control continues
sequentially with nothing else done; the second address and SP are modulo 65,536 (D1). -/
def Obligations.ConditionalReturns : Prop :=
  ∀ s : State,
    let returned (t : State) : Prop :=
      lowByte t.pc = s.byteAt s.sp ∧ highByte t.pc = (s.memRead s.sp).2.byteAt (s.sp + 1) ∧ t.sp = s.sp + 2 ∧
      KeepsBut [.pc, .sp, .env] [] s t ∧ t.env = ((s.memRead s.sp).2.memRead (s.sp + 1)).2.env
    let returns (i : Instr) (op : Byte) (holds : Bool) : Prop :=
      Completes i s (fun t => if holds then returned t else t = s) ∧
      CondRowOf i [op] (1, 6) (3, 12) (1, 5) (3, 11)
    returns .rnz 0xC0#8 (!s.flags.z) ∧ returns .rz 0xC8#8 s.flags.z ∧
    returns .rnc 0xD0#8 (!s.flags.cy) ∧ returns .rc 0xD8#8 s.flags.cy ∧
    returns .rpo 0xE0#8 (!s.flags.p) ∧ returns .rpe 0xE8#8 s.flags.p ∧
    returns .rp 0xF0#8 (!s.flags.s) ∧ returns .rm 0xF8#8 s.flags.s

/-- R184 with R186: where the stack lies in RAM, `RET` after `CALL` resumes after the call with the stack as deep as
before. -/
def Obligations.ReturnUndoesCall : Prop :=
  ∀ (s : State) (addr : Word), kindAt s.platform (s.sp - 1) = .ram → kindAt s.platform (s.sp - 2) = .ram →
    Completes (.call addr) s (fun t => t.pc = addr ∧
      Completes .ret t (fun u => u.pc = s.pc ∧ KeepsMemBut [s.sp - 1, s.sp - 2] s u ∧ KeepsBut [.mem] [] s u))

/-! ## Stack, I/O, control -/

/-- R201, R202: `PUSH rp` and `PUSH PSW`. Of the flag byte the five flag bits are stated; nothing is said of bits 5, 3 and
1, which are free (the model counts one draw for them, log 13). That the stack addresses are modulo 65,536, and that a ROM or
absent location drops a stacked byte and a device sees it, are the spec's decisions D1 (log 19) and D5 (R54, log 12). -/
def Obligations.PushStoresTwoBytes : Prop :=
  ∀ (s : State) (rp : StackPair),
    (Completes (.push rp) s (fun t => t.sp = s.sp - 2 ∧
        StoresBytes [(s.sp - 1, highByte (s.pair (pairOfStackPair rp))),
          (s.sp - 2, lowByte (s.pair (pairOfStackPair rp)))] s t ∧
        KeepsBut [.sp, .mem, .env] [] s t ∧
        t.env = ((s.memWrite (s.sp - 1) (highByte (s.pair (pairOfStackPair rp)))).memWrite (s.sp - 2)
          (lowByte (s.pair (pairOfStackPair rp)))).env) ∧
      RowOf (.push rp) [0b11#2 ++ stackPairCode rp ++ 0b0101#4] 3 12 11) ∧
    (Completes .pushPsw s (fun t => ∃ fb : Byte,
        fb.getLsbD 7 = s.flags.s ∧ fb.getLsbD 6 = s.flags.z ∧ fb.getLsbD 4 = s.flags.ac ∧ fb.getLsbD 2 = s.flags.p ∧
        fb.getLsbD 0 = s.flags.cy ∧ t.sp = s.sp - 2 ∧ StoresBytes [(s.sp - 1, s.regs.a), (s.sp - 2, fb)] s t ∧
        KeepsBut [.sp, .mem, .env] [] s t ∧
        t.env = ((s.countDraw.memWrite (s.sp - 1) s.regs.a).memWrite (s.sp - 2) fb).env) ∧
      RowOf .pushPsw [0xF5#8] 3 12 11)

/-- R203, R204: `POP rp` and `POP PSW`; the second address and SP are modulo 65,536 (D1). -/
def Obligations.PopLoadsTwoBytes : Prop :=
  ∀ (s : State) (rp : StackPair),
    let lo := s.byteAt s.sp
    let hi := (s.memRead s.sp).2.byteAt (s.sp + 1)
    (Completes (.pop rp) s (fun t => highByte (t.pair (pairOfStackPair rp)) = hi ∧
        lowByte (t.pair (pairOfStackPair rp)) = lo ∧ t.sp = s.sp + 2 ∧
        KeepsBut [.sp, .env] (regsOfPair (pairOfStackPair rp)) s t ∧
        t.env = ((s.memRead s.sp).2.memRead (s.sp + 1)).2.env) ∧
      RowOf (.pop rp) [0b11#2 ++ stackPairCode rp ++ 0b0001#4] 3 10 10) ∧
    (Completes .popPsw s (fun t => t.regs.a = hi ∧ t.flags.cy = lo.getLsbD 0 ∧ t.flags.p = lo.getLsbD 2 ∧
        t.flags.ac = lo.getLsbD 4 ∧ t.flags.z = lo.getLsbD 6 ∧ t.flags.s = lo.getLsbD 7 ∧ t.sp = s.sp + 2 ∧
        KeepsBut [.sp, .flags, .env] [.a] s t ∧ t.env = ((s.memRead s.sp).2.memRead (s.sp + 1)).2.env) ∧
      RowOf .popPsw [0xF1#8] 3 10 10)

/-- R202 with R204: where the stack lies in RAM, `POP PSW` after `PUSH PSW` restores A, all five flags and SP, whatever the
three free bits were. -/
def Obligations.PopPswUndoesPushPsw : Prop :=
  ∀ s : State, kindAt s.platform (s.sp - 1) = .ram → kindAt s.platform (s.sp - 2) = .ram →
    Completes .pushPsw s (fun t => Completes .popPsw t (fun u =>
      KeepsMemBut [s.sp - 1, s.sp - 2] s u ∧ KeepsBut [.mem, .env] [] s u))

/-- R205, R206: `XTHL` and `SPHL`; the order of the two writes of `XTHL` is the spec's decision D4 (log 20), and SP + 1 is
modulo 65,536 (D1, log 19); that a ROM or absent location drops a byte `XTHL` writes and a device sees it is its decision D5
(R54, log 12). -/
def Obligations.XthlAndSphl : Prop :=
  ∀ s : State,
    (Completes .xthl s (fun t => t.regs.l = s.byteAt s.sp ∧ t.regs.h = (s.memRead s.sp).2.byteAt (s.sp + 1) ∧
        StoresBytes [(s.sp, s.regs.l), (s.sp + 1, s.regs.h)] s t ∧ KeepsBut [.mem, .env] [.h, .l] s t ∧
        t.env =
          ((((s.memRead s.sp).2.memRead (s.sp + 1)).2.memWrite (s.sp + 1) s.regs.h).memWrite s.sp s.regs.l).env) ∧
      RowOf .xthl [0xE3#8] 5 16 18) ∧
    (Completes .sphl s (fun t => highByte t.sp = s.regs.h ∧ lowByte t.sp = s.regs.l ∧ KeepsBut [.sp] [] s t) ∧
      RowOf .sphl [0xF9#8] 1 6 5)

/-- R207, R208, R52: `IN` puts the byte the environment supplies in A and records the access; where the input list holds
none the byte is free (log 11). `OUT` appends the pair (port, A) to the output events. -/
def Obligations.InAndOutReachThePort : Prop :=
  ∀ (s : State) (port : Byte),
    (Completes (.inPort port) s (fun t =>
        (∀ v rest, s.env.io = v :: rest → t.regs.a = v ∧
          t.env = { s.env with io := rest, trace := s.env.trace ++ [.ioRead port] }) ∧
        (s.env.io = [] → t.env = { s.env with draws := s.env.draws + 1, trace := s.env.trace ++ [.ioRead port] }) ∧
        KeepsBut [.env] [.a] s t) ∧
      RowOf (.inPort port) [0xDB#8, port] 3 10 10) ∧
    (Completes (.outPort port) s (fun t =>
        t.env = { s.env with trace := s.env.trace ++ [.ioWrite port s.regs.a] } ∧ KeepsBut [.env] [] s t) ∧
      RowOf (.outPort port) [0xD3#8, port] 3 10 10)

/-- R209 to R212: what `EI`, `DI`, `HLT`, `NOP` themselves write; what `EI` and `DI` do at their neighbours by these bits is
the spec's decision D9 (log 21). Of `HLT` the two machine cycles are the letters "F B" of Table 5-1 (90_conflicts.md C8). -/
def Obligations.EiDiHltNopWriteControlOnly : Prop :=
  ∀ s : State,
    (Completes .ei s (fun t => t.ctl = { s.ctl with eiPend := true, intInhibit := true } ∧ KeepsBut [.ctl] [] s t) ∧
      RowOf .ei [0xFB#8] 1 4 4) ∧
    (Completes .di s (fun t => t.ctl = { s.ctl with ie := false, eiPend := false, intInhibit := true } ∧
        KeepsBut [.ctl] [] s t) ∧ RowOf .di [0xF3#8] 1 4 4) ∧
    (Completes .hlt s (fun t => t.ctl = { s.ctl with halted := true } ∧ KeepsBut [.ctl] [] s t) ∧
      RowOf .hlt [0x76#8] 2 5 7) ∧
    exec .nop s = .next s ∧ RowOf .nop [0x00#8] 1 4 4

/-- R213: the bits `RIM` loads. Bits 3 and 6 are the source's; the places of the other six are the spec's general knowledge
(G3, log 6). Directly after an `EI`, with no TRAP outstanding, nothing is said of bit 3. That bits 4 and 5 read 0 where the
list of samples has run out is the model's own choice (log 10, unsafe); that they show the present levels of the two lines,
whatever the masks and IE are, is the spec's decision D14 (log 34). The encoding and timing lines are those of the
8085A; the 8080A has none. -/
def Obligations.RimReadsMasksAndLines : Prop :=
  (∀ s : State, s.platform.variant = .v8085A →
    Completes .rim s (fun t =>
      t.regs.a.getLsbD 0 = s.ctl.m55 ∧ t.regs.a.getLsbD 1 = s.ctl.m65 ∧ t.regs.a.getLsbD 2 = s.ctl.m75 ∧
      (s.ctl.trapRim = true → t.regs.a.getLsbD 3 = s.ctl.ieTrap) ∧
      (s.ctl.trapRim = false → s.ctl.eiPend = false → t.regs.a.getLsbD 3 = s.ctl.ie) ∧
      t.regs.a.getLsbD 6 = s.ctl.r75 ∧
      (∀ q rest, s.env.rim = q :: rest → t.regs.a.getLsbD 4 = q.rst55 ∧ t.regs.a.getLsbD 5 = q.rst65 ∧
        t.regs.a.getLsbD 7 = q.sid ∧ t.env.rim = rest) ∧
      (s.env.rim = [] → t.regs.a.getLsbD 4 = false ∧ t.regs.a.getLsbD 5 = false ∧ t.env.rim = []) ∧
      t.env.trace = s.env.trace ∧ t.env.boundary = s.env.boundary ∧ t.env.io = s.env.io ∧ t.env.bus = s.env.bus ∧
      t.ctl = { s.ctl with trapRim := false } ∧ KeepsBut [.ctl, .env] [.a] s t)) ∧
  RowOf85 .rim [0x20#8] 1 4

/-- R214: the three groups of `SIM` act independently; bit 5 of A does nothing (D21, log 23). A mask bit of 1 disables its
interrupt (D19, log 6). The encoding and timing lines are those of the 8085A; the 8080A has none. -/
def Obligations.SimWritesMasksLatchAndSod : Prop :=
  (∀ s : State, s.platform.variant = .v8085A →
    Completes .sim s (fun t =>
      let a := s.regs.a
      (a.getLsbD 3 = true → t.ctl.m55 = a.getLsbD 0 ∧ t.ctl.m65 = a.getLsbD 1 ∧ t.ctl.m75 = a.getLsbD 2) ∧
      (a.getLsbD 3 = false → t.ctl.m55 = s.ctl.m55 ∧ t.ctl.m65 = s.ctl.m65 ∧ t.ctl.m75 = s.ctl.m75) ∧
      t.ctl.r75 = (s.ctl.r75 && !a.getLsbD 4) ∧
      t.ctl.sod = (if a.getLsbD 6 then a.getLsbD 7 else s.ctl.sod) ∧
      t.ctl = { s.ctl with m55 := t.ctl.m55, m65 := t.ctl.m65, m75 := t.ctl.m75, r75 := t.ctl.r75, sod := t.ctl.sod } ∧
      KeepsBut [.ctl] [] s t)) ∧
  RowOf85 .sim [0x30#8] 1 4

/-! ## Memory -/

/-- R53, R54: a read of RAM gives the byte it holds and a read of ROM the byte the platform fixes, and neither changes
anything; a byte written to RAM is read back and no other is touched. That writes to ROM and absent locations are dropped and
a write to a device is an output event is the spec's decision D5 (log 12). -/
def Obligations.MemoryReadsWhatWasWritten : Prop :=
  ∀ (s : State) (a : Word) (v : Byte),
    (kindAt s.platform a = .ram → s.memRead a = (s.mem.read a.toNat, s) ∧
      (s.memWrite a v).memRead a = (v, s.memWrite a v) ∧
      ∀ b, b ≠ a → kindAt s.platform b = .ram → (s.memWrite a v).byteAt b = s.byteAt b) ∧
    (kindAt s.platform a = .rom → s.memRead a = (romByte s.platform a, s) ∧ s.memWrite a v = s) ∧
    (kindAt s.platform a = .absent → s.memWrite a v = s) ∧
    (kindAt s.platform a = .device → KeepsBut [.env] [] s (s.memWrite a v) ∧
      (s.memWrite a v).env = { s.env with trace := s.env.trace ++ [.deviceWrite a v] })

/-- R53, R52: a read of an absent or device location delivers the next byte of the input list, and where there is none a free
one, and changes nothing else of the machine or of what the environment will answer: that the read is a draw is the spec's
decision D5; the list, the count of draws and the record of device reads are the model's own (logs 12, 13, 25). -/
def Obligations.ReadsBeyondMemoryAreInputs : Prop :=
  ∀ (s : State) (a : Word), kindAt s.platform a = .absent ∨ kindAt s.platform a = .device →
    let seen : List Event := s.env.trace ++ (if kindAt s.platform a = .device then [.deviceRead a] else [])
    KeepsBut [.env] [] s (s.memRead a).2 ∧
    (∀ v rest, s.env.bus = v :: rest → s.byteAt a = v ∧
      (s.memRead a).2.env = { s.env with bus := rest, trace := seen }) ∧
    (s.env.bus = [] → (s.memRead a).2.env = { s.env with draws := s.env.draws + 1, trace := seen })

/-! ## Whole-machine rules -/

/-- R29: an instruction that is not in the table writes no flag. -/
def Obligations.OnlyTheTableWritesFlags : Prop :=
  ∀ (i : Instr) (s t : State), exec i s = .next t →
    (match i with
      | .addR _ | .addM | .adi _ | .adcR _ | .adcM | .aci _ | .subR _ | .subM | .sui _ | .cmpR _ | .cmpM | .cpi _
      | .sbbR _ | .sbbM | .sbi _ | .inrR _ | .inrM | .dcrR _ | .dcrM | .dad _ | .daa | .anaR _ | .anaM | .ani _
      | .xraR _ | .xraM | .xri _ | .oraR _ | .oraM | .ori _ | .rlc | .rrc | .ral | .rar | .cmc | .stc | .popPsw => True
      | _ => t.flags = s.flags)

/-- R24, R30 to R34, R37: SP is written by `LXI SP`, `SPHL`, `INX SP`, `DCX SP`, `PUSH`, `POP`, `CALL`, `RET`, `RST`, and by
the eight conditional calls and the eight conditional returns where their condition holds, and by no other instruction; the
interrupt, halt and serial state by `EI`, `DI`, `HLT`, `RIM` and `SIM` only; the masks and SOD among it by `SIM` only. -/
def Obligations.OnlyTheirInstructionsWriteSpAndControl : Prop :=
  ∀ (i : Instr) (s t : State), exec i s = .next t →
    (match i with
      | .lxi .sp _ | .sphl | .inx .sp | .dcx .sp | .push _ | .pushPsw | .pop _ | .popPsw | .call _ | .ret | .rst _ => True
      | .cnz _ | .rnz => s.flags.z = true → t.sp = s.sp
      | .cz _ | .rz => s.flags.z = false → t.sp = s.sp
      | .cnc _ | .rnc => s.flags.cy = true → t.sp = s.sp
      | .cc _ | .rc => s.flags.cy = false → t.sp = s.sp
      | .cpo _ | .rpo => s.flags.p = true → t.sp = s.sp
      | .cpe _ | .rpe => s.flags.p = false → t.sp = s.sp
      | .cp _ | .rp => s.flags.s = true → t.sp = s.sp
      | .cm _ | .rm => s.flags.s = false → t.sp = s.sp
      | _ => t.sp = s.sp) ∧
    (t.ctl ≠ s.ctl → i = .ei ∨ i = .di ∨ i = .hlt ∨ i = .rim ∨ i = .sim) ∧
    ((t.ctl.m55 ≠ s.ctl.m55 ∨ t.ctl.m65 ≠ s.ctl.m65 ∨ t.ctl.m75 ≠ s.ctl.m75 ∨ t.ctl.sod ≠ s.ctl.sod) → i = .sim)

/-- The invariant every step keeps, from every state that has it: RAM stays canonical, IntInhibit is 0 while halted, EIpend
is 1 only where IntInhibit is. -/
def Obligations.EveryStepKeepsInv : Prop :=
  ∀ s t : State, s.Inv → step s = .next t → t.Inv

/-- The invariant holds right after reset. -/
def Obligations.ResetHasInv : Prop := State.reset.Inv

/-- No step changes what the platform fixes: the part, the memory map, ROM and the entry addresses (R7). -/
def Obligations.EveryStepKeepsThePlatform : Prop :=
  ∀ s t : State, step s = .next t → t.platform = s.platform

/-- R3, R249: on the 8080A the interrupt masks, the RST 7.5 latch, SOD, IEtrap and TrapRim do not exist: no step reads or
writes them. Changing them changes nothing else. -/
def Obligations.The8080HasNo8085State : Prop :=
  ∀ (s : State) (m55 m65 m75 r75 sod ieTrap trapRim : Bool), s.platform.variant = .v8080A →
    let put (u : State) : State :=
      u.setCtl { u.ctl with
        m55 := m55, m65 := m65, m75 := m75, r75 := r75, sod := sod, ieTrap := ieTrap, trapRim := trapRim }
    (∀ t, step s = .next t → step (put s) = .next (put t)) ∧
    (∀ t, step s = .next t → t.ctl.m55 = s.ctl.m55 ∧ t.ctl.m65 = s.ctl.m65 ∧ t.ctl.m75 = s.ctl.m75 ∧
      t.ctl.r75 = s.ctl.r75 ∧ t.ctl.sod = s.ctl.sod ∧ t.ctl.ieTrap = s.ctl.ieTrap ∧ t.ctl.trapRim = s.ctl.trapRim)

/-! ## Interrupts, halt and reset -/

/-- R232, the half 'only if' (the half 'if' is `PriorityOrder`): with IE 0 no source but TRAP is accepted; a source whose mask
bit is 1 is not accepted. That TRAP has no gate of its own is the spec's general knowledge (G5, log 7), and that IntInhibit
shuts out every source, TRAP included, is its decision D9 (R237, log 21). -/
def Obligations.GatesOfTheSources : Prop :=
  ∀ (s : State) (q : IntQuery) (src : IntSource), acceptedSource s q = some src →
    s.ctl.intInhibit = false ∧ (src ≠ .trap → s.ctl.ie = true) ∧ (src = .trap → q.trap = true) ∧
    (src = .rst75 → s.ctl.r75 = true ∧ s.ctl.m75 = false ∧ s.platform.variant = .v8085A) ∧
    (src = .rst65 → q.rst65 = true ∧ s.ctl.m65 = false) ∧ (src = .rst55 → q.rst55 = true ∧ s.ctl.m55 = false) ∧
    (src = .intr → q.intr = true)

/-- R232, the half 'if', and R236, R238: unless IntInhibit is 1, the source accepted is the first in the order TRAP, RST 7.5,
RST 6.5, RST 5.5, INTR whose expression of R232 holds. RST 7.5 exists on the 8085A only (R249). The order, and that TRAP has
no gate, is the spec's general knowledge (G5, D16, log 7). -/
def Obligations.PriorityOrder : Prop :=
  ∀ (s : State) (q : IntQuery), s.ctl.intInhibit = false →
    let accept75 : Prop := s.platform.variant = .v8085A ∧ s.ctl.r75 = true ∧ s.ctl.ie = true ∧ s.ctl.m75 = false
    let accept65 : Prop := q.rst65 = true ∧ s.ctl.ie = true ∧ s.ctl.m65 = false
    let accept55 : Prop := q.rst55 = true ∧ s.ctl.ie = true ∧ s.ctl.m55 = false
    let acceptIntr : Prop := q.intr = true ∧ s.ctl.ie = true
    (q.trap = true → acceptedSource s q = some .trap) ∧
    (q.trap = false → accept75 → acceptedSource s q = some .rst75) ∧
    (q.trap = false → ¬accept75 → accept65 → acceptedSource s q = some .rst65) ∧
    (q.trap = false → ¬accept75 → ¬accept65 → accept55 → acceptedSource s q = some .rst55) ∧
    (q.trap = false → ¬accept75 → ¬accept65 → ¬accept55 → acceptIntr → acceptedSource s q = some .intr) ∧
    (q.trap = false → ¬accept75 → ¬accept65 → ¬accept55 → ¬acceptIntr → acceptedSource s q = none)

/-- R240, R241: the entry of TRAP, RST 7.5, RST 6.5, RST 5.5 replaces the fetch: PC is pushed unadvanced, control goes to
the source's address, IE, EIpend, IntInhibit and halted become 0; TRAP saves IE and sets TrapRim, RST 7.5 resets its
latch; nothing else changes. What entry does is the spec's general knowledge (G2, G6, logs 5, 7), and so is that it ends a
halt (G7, D10, log 8). The environment has used up its answer to this boundary and is told of the acceptance (R233), which
the model's record puts ahead of any stack write to a device (D5; logs 9, 12, 25). -/
def Obligations.VectoredEntry : Prop :=
  ∀ (s : State) (q : IntQuery) (src : IntSource) (target : Word),
    Accepts s q src → vectorOf s.platform src = some target →
    let stack := [(s.sp - 1, highByte s.pc), (s.sp - 2, lowByte s.pc)]
    ∃ t, step s = .next t ∧ t.pc = target ∧ t.sp = s.sp - 2 ∧ StoresBytes stack s t ∧
      t.ctl =
        { s.ctl with
          ie := false, eiPend := false, intInhibit := false, halted := false
          r75 := decide (src ≠ .rst75) && (s.ctl.r75 || q.rst75Edge)
          ieTrap := if src = .trap then s.ctl.ie else s.ctl.ieTrap
          trapRim := decide (src = .trap) || s.ctl.trapRim } ∧
      t.env =
        { s.env with
          boundary := s.env.boundary.tail
          trace := s.env.trace ++ .accepted src :: deviceEvents s.platform stack } ∧
      KeepsBut [.pc, .sp, .mem, .ctl, .env] [] s t

/-- R242, R245: INTR with `RST n` or `CALL addr` pushes PC unadvanced and goes to its target; anything else is refused (U6,
D13, log 16). That PC is not advanced, that IE is cleared and that a device supplies one of these two is the spec's general
knowledge (G8, log 7), and so is that the entry ends a halt (G7, D10, log 8). The environment is told of the acceptance
(R233); that a ROM or absent location drops a stacked byte and a device sees it is the spec's decision D5 (logs 9, 12, 25). -/
def Obligations.IntrEntry : Prop :=
  ∀ (s : State) (q : IntQuery), Accepts s q .intr →
    (∀ target, (∃ n : BitVec 3, q.intrBytes = [0b11#2 ++ n ++ 0b111#3] ∧ target = BitVec.ofNat 16 (8 * n.toNat)) ∨
        q.intrBytes = [0xCD#8, lowByte target, highByte target] →
      let stack := [(s.sp - 1, highByte s.pc), (s.sp - 2, lowByte s.pc)]
      ∃ t, step s = .next t ∧ t.pc = target ∧ t.sp = s.sp - 2 ∧ StoresBytes stack s t ∧
        t.ctl =
          { s.ctl with
            ie := false, eiPend := false, intInhibit := false, halted := false, r75 := s.ctl.r75 || q.rst75Edge } ∧
        t.env =
          { s.env with
            boundary := s.env.boundary.tail
            trace := s.env.trace ++ .accepted .intr :: deviceEvents s.platform stack } ∧
        KeepsBut [.pc, .sp, .mem, .ctl, .env] [] s t) ∧
    ((∀ n : BitVec 3, q.intrBytes ≠ [0b11#2 ++ n ++ 0b111#3]) →
        (∀ addr : Word, q.intrBytes ≠ [0xCD#8, lowByte addr, highByte addr]) →
      step s = .refused (.prohibitedAcknowledge q.intrBytes))

/-- R246: where the stack lies in RAM (elsewhere the pushed PC need not be there to return to), `RET` after an entry resumes
the interrupted program with every register and flag as it was. It rests on the entry pushing PC unadvanced, the spec's
general knowledge (G6, G8, log 7: PRESUMED). -/
def Obligations.ReturnResumesTheInterruptedProgram : Prop :=
  ∀ (s t : State) (q : IntQuery) (src : IntSource),
    kindAt s.platform (s.sp - 1) = .ram → kindAt s.platform (s.sp - 2) = .ram → Accepts s q src → step s = .next t →
    Completes .ret t (fun u => u.pc = s.pc ∧ KeepsMemBut [s.sp - 1, s.sp - 2] s u ∧ KeepsBut [.mem, .ctl, .env] [] s u)

/-- R12 item 6 over any instruction `i` that a step runs: after the step EIpend is 1 exactly where `i` is `EI`, IntInhibit
exactly where it is `EI` or `DI`; IE is 0 where it is `DI`, else 1 where EIpend was 1 before the step, else as before. So `EI`
acts one instruction late (R209, R276): its own step completes and leaves IE as it was where no `EI` came directly before, the
boundary after it accepts nothing, and IE is 1 after the next instruction unless that is `DI`. The bookkeeping, the boundary
shut for every source and the case of `DI` are the spec's decision D9 (log 21). -/
def Obligations.EiActsOneInstructionLate : Prop :=
  (∀ s t : State, Fetches s → step s = .next t →
    let i := (s.afterBoundary).fetch.1
    (t.ctl.eiPend = true ↔ i = .ei) ∧ (t.ctl.intInhibit = true ↔ i = .ei ∨ i = .di) ∧ (i = .di → t.ctl.ie = false) ∧
    (i ≠ .di → s.ctl.eiPend = true → t.ctl.ie = true) ∧ (i ≠ .di → s.ctl.eiPend = false → t.ctl.ie = s.ctl.ie)) ∧
  (∀ s : State, Fetches s → (s.afterBoundary).fetch.1 = .ei →
    ∃ t, step s = .next t ∧ (s.ctl.eiPend = false → t.ctl.ie = s.ctl.ie) ∧
      (t.boundaryInput ≠ .reset → Fetches t ∧
        ∀ u, step t = .next u →
          ((t.afterBoundary).fetch.1 ≠ .di → u.ctl.ie = true) ∧ ((t.afterBoundary).fetch.1 = .di → u.ctl.ie = false)))

/-- R210: after `DI` interrupts are off at once. That EIpend is cleared too, and that the boundary after `DI` accepts no
source at all, TRAP included (R237), are the spec's decision D9 (log 21). -/
def Obligations.DiActsAtOnce : Prop :=
  ∀ s t : State, Fetches s → (s.afterBoundary).fetch.1 = .di → step s = .next t →
    t.ctl.ie = false ∧ t.ctl.eiPend = false ∧ (t.boundaryInput ≠ .reset → BoundaryPasses t)

/-- R243, R255, R234: while halted, a boundary that accepts nothing leaves everything as it is but the RST 7.5 latch, which
an edge sets, and the environment's answer, which is used up (log 9). That nothing but an accepted interrupt or a reset ends
a halt is the spec's decision D10, from general knowledge (G7, log 8: PRESUMED). -/
def Obligations.HaltedStaysHalted : Prop :=
  ∀ s : State, s.ctl.halted = true → BoundaryPasses s → step s = .next s.afterBoundary ∧
    ∀ q, s.boundaryInput = .query q →
      s.afterBoundary.ctl = { s.ctl with r75 := s.ctl.r75 || q.rst75Edge } ∧
      s.afterBoundary.env = { s.env with boundary := s.env.boundary.tail } ∧ KeepsBut [.ctl, .env] [] s s.afterBoundary

/-- R248: the first `RIM` after a TRAP entry loads the IE that existed before the TRAP into bit 3, and the next one the
current IE. How long the special case lasts is the spec's decision D18 (log 22); that the current IE is 0 there rests on the
TRAP entry clearing it, the spec's general knowledge (G6, R240; log 7: PRESUMED). -/
def Obligations.RimAfterTrap : Prop :=
  ∀ (s t : State) (q : IntQuery), s.platform.variant = .v8085A → Accepts s q .trap → step s = .next t →
    Completes .rim t (fun u => u.regs.a.getLsbD 3 = s.ctl.ie ∧
      Completes .rim u (fun w => w.regs.a.getLsbD 3 = false))

/-- R270: the reset event, in place of whatever would have come next. The masks, the latch and SOD are the source's (R272).
That IE, EIpend and IntInhibit are 0 is the spec's decision D12, from general knowledge (G4, log 4: PRESUMED); that a halt ends
its D10 (G7, log 8: PRESUMED); that TrapRim is 0 its D18 (log 22); that the 8080A has this event its general knowledge (G9,
log 24: PRESUMED). Nothing is said of what R273 leaves unspecified. -/
def Obligations.ResetEvent : Prop :=
  ∀ s : State, s.boundaryInput = .reset →
    ∃ t, step s = .next t ∧ t.pc = s.platform.resetPc ∧
      t.ctl.ie = false ∧ t.ctl.eiPend = false ∧ t.ctl.intInhibit = false ∧ t.ctl.halted = false ∧
      (s.platform.variant = .v8085A →
        t.ctl.m55 = true ∧ t.ctl.m65 = true ∧ t.ctl.m75 = true ∧ t.ctl.r75 = false ∧ t.ctl.sod = false ∧
        t.ctl.trapRim = false)

/-- R272, on the reset event and on the machine as it stands right after reset: the three masks are set, the RST 7.5 latch
and SOD are reset. -/
def Obligations.ResetLeavesMasksSet : Prop :=
  let masked (c : Ctl) : Prop :=
    c.m55 = true ∧ c.m65 = true ∧ c.m75 = true ∧ c.r75 = false ∧ c.sod = false
  (∀ p : Platform, p.variant = .v8085A → masked (State.powerUp p).ctl) ∧
    (∀ s : State, s.platform.variant = .v8085A → s.boundaryInput = .reset → ∃ t, step s = .next t ∧ masked t.ctl)
end

