-- ==== Sys2Proof/Laws/State.lean ====
section
/-! SUPPORT. One lemma per field per update of the state, so that no proof unfolds a record update; and the laws of the
register accessors (10_state.md R21, R22). -/

namespace Sys2Proof.Machine

/-! ## `State.setPc` -/

@[simp] theorem setPc_regs (s : State) (v : Word) : (s.setPc v).regs = s.regs := rfl

@[simp] theorem setPc_sp (s : State) (v : Word) : (s.setPc v).sp = s.sp := rfl

@[simp] theorem setPc_pc (s : State) (v : Word) : (s.setPc v).pc = v := rfl

@[simp] theorem setPc_flags (s : State) (v : Word) : (s.setPc v).flags = s.flags := rfl

@[simp] theorem setPc_ctl (s : State) (v : Word) : (s.setPc v).ctl = s.ctl := rfl

@[simp] theorem setPc_mem (s : State) (v : Word) : (s.setPc v).mem = s.mem := rfl

@[simp] theorem setPc_platform (s : State) (v : Word) : (s.setPc v).platform = s.platform := rfl

@[simp] theorem setPc_env (s : State) (v : Word) : (s.setPc v).env = s.env := rfl

@[simp] theorem setPc_tStates (s : State) (v : Word) : (s.setPc v).tStates = s.tStates := rfl

/-! ## `State.setSp` -/

@[simp] theorem setSp_regs (s : State) (v : Word) : (s.setSp v).regs = s.regs := rfl

@[simp] theorem setSp_sp (s : State) (v : Word) : (s.setSp v).sp = v := rfl

@[simp] theorem setSp_pc (s : State) (v : Word) : (s.setSp v).pc = s.pc := rfl

@[simp] theorem setSp_flags (s : State) (v : Word) : (s.setSp v).flags = s.flags := rfl

@[simp] theorem setSp_ctl (s : State) (v : Word) : (s.setSp v).ctl = s.ctl := rfl

@[simp] theorem setSp_mem (s : State) (v : Word) : (s.setSp v).mem = s.mem := rfl

@[simp] theorem setSp_platform (s : State) (v : Word) : (s.setSp v).platform = s.platform := rfl

@[simp] theorem setSp_env (s : State) (v : Word) : (s.setSp v).env = s.env := rfl

@[simp] theorem setSp_tStates (s : State) (v : Word) : (s.setSp v).tStates = s.tStates := rfl

/-! ## `State.setFlags` -/

@[simp] theorem setFlags_regs (s : State) (f : Flags) : (s.setFlags f).regs = s.regs := rfl

@[simp] theorem setFlags_sp (s : State) (f : Flags) : (s.setFlags f).sp = s.sp := rfl

@[simp] theorem setFlags_pc (s : State) (f : Flags) : (s.setFlags f).pc = s.pc := rfl

@[simp] theorem setFlags_flags (s : State) (f : Flags) : (s.setFlags f).flags = f := rfl

@[simp] theorem setFlags_ctl (s : State) (f : Flags) : (s.setFlags f).ctl = s.ctl := rfl

@[simp] theorem setFlags_mem (s : State) (f : Flags) : (s.setFlags f).mem = s.mem := rfl

@[simp] theorem setFlags_platform (s : State) (f : Flags) : (s.setFlags f).platform = s.platform := rfl

@[simp] theorem setFlags_env (s : State) (f : Flags) : (s.setFlags f).env = s.env := rfl

@[simp] theorem setFlags_tStates (s : State) (f : Flags) : (s.setFlags f).tStates = s.tStates := rfl

/-! ## `State.setCtl` -/

@[simp] theorem setCtl_regs (s : State) (c : Ctl) : (s.setCtl c).regs = s.regs := rfl

@[simp] theorem setCtl_sp (s : State) (c : Ctl) : (s.setCtl c).sp = s.sp := rfl

@[simp] theorem setCtl_pc (s : State) (c : Ctl) : (s.setCtl c).pc = s.pc := rfl

@[simp] theorem setCtl_flags (s : State) (c : Ctl) : (s.setCtl c).flags = s.flags := rfl

@[simp] theorem setCtl_ctl (s : State) (c : Ctl) : (s.setCtl c).ctl = c := rfl

@[simp] theorem setCtl_mem (s : State) (c : Ctl) : (s.setCtl c).mem = s.mem := rfl

@[simp] theorem setCtl_platform (s : State) (c : Ctl) : (s.setCtl c).platform = s.platform := rfl

@[simp] theorem setCtl_env (s : State) (c : Ctl) : (s.setCtl c).env = s.env := rfl

@[simp] theorem setCtl_tStates (s : State) (c : Ctl) : (s.setCtl c).tStates = s.tStates := rfl

/-! ## `State.setCy` -/

@[simp] theorem setCy_regs (s : State) (c : Bool) : (s.setCy c).regs = s.regs := rfl

@[simp] theorem setCy_sp (s : State) (c : Bool) : (s.setCy c).sp = s.sp := rfl

@[simp] theorem setCy_pc (s : State) (c : Bool) : (s.setCy c).pc = s.pc := rfl

@[simp] theorem setCy_flags (s : State) (c : Bool) : (s.setCy c).flags = { s.flags with cy := c } := rfl

@[simp] theorem setCy_ctl (s : State) (c : Bool) : (s.setCy c).ctl = s.ctl := rfl

@[simp] theorem setCy_mem (s : State) (c : Bool) : (s.setCy c).mem = s.mem := rfl

@[simp] theorem setCy_platform (s : State) (c : Bool) : (s.setCy c).platform = s.platform := rfl

@[simp] theorem setCy_env (s : State) (c : Bool) : (s.setCy c).env = s.env := rfl

@[simp] theorem setCy_tStates (s : State) (c : Bool) : (s.setCy c).tStates = s.tStates := rfl

/-! ## `State.emit` -/

@[simp] theorem emit_regs (s : State) (e : Event) : (s.emit e).regs = s.regs := rfl

@[simp] theorem emit_sp (s : State) (e : Event) : (s.emit e).sp = s.sp := rfl

@[simp] theorem emit_pc (s : State) (e : Event) : (s.emit e).pc = s.pc := rfl

@[simp] theorem emit_flags (s : State) (e : Event) : (s.emit e).flags = s.flags := rfl

@[simp] theorem emit_ctl (s : State) (e : Event) : (s.emit e).ctl = s.ctl := rfl

@[simp] theorem emit_mem (s : State) (e : Event) : (s.emit e).mem = s.mem := rfl

@[simp] theorem emit_platform (s : State) (e : Event) : (s.emit e).platform = s.platform := rfl

@[simp] theorem emit_env (s : State) (e : Event) : (s.emit e).env = { s.env with trace := s.env.trace ++ [e] } := rfl

@[simp] theorem emit_tStates (s : State) (e : Event) : (s.emit e).tStates = s.tStates := rfl

/-! ## `State.countDraw` -/

@[simp] theorem countDraw_regs (s : State) : (s.countDraw).regs = s.regs := rfl

@[simp] theorem countDraw_sp (s : State) : (s.countDraw).sp = s.sp := rfl

@[simp] theorem countDraw_pc (s : State) : (s.countDraw).pc = s.pc := rfl

@[simp] theorem countDraw_flags (s : State) : (s.countDraw).flags = s.flags := rfl

@[simp] theorem countDraw_ctl (s : State) : (s.countDraw).ctl = s.ctl := rfl

@[simp] theorem countDraw_mem (s : State) : (s.countDraw).mem = s.mem := rfl

@[simp] theorem countDraw_platform (s : State) : (s.countDraw).platform = s.platform := rfl

@[simp] theorem countDraw_env (s : State) : (s.countDraw).env = { s.env with draws := s.env.draws + 1 } := rfl

@[simp] theorem countDraw_tStates (s : State) : (s.countDraw).tStates = s.tStates := rfl

/-! ## `State.useBoundaryInput` -/

@[simp] theorem useBoundaryInput_regs (s : State) : (s.useBoundaryInput).regs = s.regs := rfl

@[simp] theorem useBoundaryInput_sp (s : State) : (s.useBoundaryInput).sp = s.sp := rfl

@[simp] theorem useBoundaryInput_pc (s : State) : (s.useBoundaryInput).pc = s.pc := rfl

@[simp] theorem useBoundaryInput_flags (s : State) : (s.useBoundaryInput).flags = s.flags := rfl

@[simp] theorem useBoundaryInput_ctl (s : State) : (s.useBoundaryInput).ctl = s.ctl := rfl

@[simp] theorem useBoundaryInput_mem (s : State) : (s.useBoundaryInput).mem = s.mem := rfl

@[simp] theorem useBoundaryInput_platform (s : State) : (s.useBoundaryInput).platform = s.platform := rfl

@[simp] theorem useBoundaryInput_env (s : State) :
    (s.useBoundaryInput).env = { s.env with boundary := s.env.boundary.tail } := rfl

@[simp] theorem useBoundaryInput_tStates (s : State) : (s.useBoundaryInput).tStates = s.tStates := rfl

/-! ## `State.latchEdge` -/

@[simp] theorem latchEdge_regs (s : State) (q : IntQuery) : (s.latchEdge q).regs = s.regs := rfl

@[simp] theorem latchEdge_sp (s : State) (q : IntQuery) : (s.latchEdge q).sp = s.sp := rfl

@[simp] theorem latchEdge_pc (s : State) (q : IntQuery) : (s.latchEdge q).pc = s.pc := rfl

@[simp] theorem latchEdge_flags (s : State) (q : IntQuery) : (s.latchEdge q).flags = s.flags := rfl

@[simp] theorem latchEdge_ctl (s : State) (q : IntQuery) :
    (s.latchEdge q).ctl = { s.ctl with r75 := s.ctl.r75 || q.rst75Edge } := rfl

@[simp] theorem latchEdge_mem (s : State) (q : IntQuery) : (s.latchEdge q).mem = s.mem := rfl

@[simp] theorem latchEdge_platform (s : State) (q : IntQuery) : (s.latchEdge q).platform = s.platform := rfl

@[simp] theorem latchEdge_env (s : State) (q : IntQuery) : (s.latchEdge q).env = s.env := rfl

@[simp] theorem latchEdge_tStates (s : State) (q : IntQuery) : (s.latchEdge q).tStates = s.tStates := rfl

/-! ## `State.enableBookkeeping` -/

@[simp] theorem enableBookkeeping_regs (i : Instr) (e : Bool) (s : State) :
    (s.enableBookkeeping i e).regs = s.regs := rfl

@[simp] theorem enableBookkeeping_sp (i : Instr) (e : Bool) (s : State) : (s.enableBookkeeping i e).sp = s.sp := rfl

@[simp] theorem enableBookkeeping_pc (i : Instr) (e : Bool) (s : State) : (s.enableBookkeeping i e).pc = s.pc := rfl

@[simp] theorem enableBookkeeping_flags (i : Instr) (e : Bool) (s : State) :
    (s.enableBookkeeping i e).flags = s.flags := rfl

@[simp] theorem enableBookkeeping_ctl (i : Instr) (e : Bool) (s : State) :
    (s.enableBookkeeping i e).ctl = { s.ctl with ie := s.ctl.ie || (e && !isDi i), eiPend := isEi i, intInhibit := isEi i || isDi i } := rfl

@[simp] theorem enableBookkeeping_mem (i : Instr) (e : Bool) (s : State) :
    (s.enableBookkeeping i e).mem = s.mem := rfl

@[simp] theorem enableBookkeeping_platform (i : Instr) (e : Bool) (s : State) :
    (s.enableBookkeeping i e).platform = s.platform := rfl

@[simp] theorem enableBookkeeping_env (i : Instr) (e : Bool) (s : State) :
    (s.enableBookkeeping i e).env = s.env := rfl

@[simp] theorem enableBookkeeping_tStates (i : Instr) (e : Bool) (s : State) :
    (s.enableBookkeeping i e).tStates = s.tStates := rfl

/-! ## `State.countTStates` -/

@[simp] theorem countTStates_regs (t : State) (i : Instr) (before : State) :
    (t.countTStates i before).regs = t.regs := rfl

@[simp] theorem countTStates_sp (t : State) (i : Instr) (before : State) : (t.countTStates i before).sp = t.sp := rfl

@[simp] theorem countTStates_pc (t : State) (i : Instr) (before : State) : (t.countTStates i before).pc = t.pc := rfl

@[simp] theorem countTStates_flags (t : State) (i : Instr) (before : State) :
    (t.countTStates i before).flags = t.flags := rfl

@[simp] theorem countTStates_ctl (t : State) (i : Instr) (before : State) :
    (t.countTStates i before).ctl = t.ctl := rfl

@[simp] theorem countTStates_mem (t : State) (i : Instr) (before : State) :
    (t.countTStates i before).mem = t.mem := rfl

@[simp] theorem countTStates_platform (t : State) (i : Instr) (before : State) :
    (t.countTStates i before).platform = t.platform := rfl

@[simp] theorem countTStates_env (t : State) (i : Instr) (before : State) :
    (t.countTStates i before).env = t.env := rfl

@[simp] theorem countTStates_tStates (t : State) (i : Instr) (before : State) :
    (t.countTStates i before).tStates = t.tStates + (tStatesOf before.platform.variant (isTaken before.flags i) i).getD 0 := rfl

/-! ## `State.setReg` and `State.setPair` -/

@[simp] theorem setReg_sp (s : State) (r : Reg) (v : Byte) : (s.setReg r v).sp = s.sp := by cases r <;> rfl

@[simp] theorem setReg_pc (s : State) (r : Reg) (v : Byte) : (s.setReg r v).pc = s.pc := by cases r <;> rfl

@[simp] theorem setReg_flags (s : State) (r : Reg) (v : Byte) : (s.setReg r v).flags = s.flags := by cases r <;> rfl

@[simp] theorem setReg_ctl (s : State) (r : Reg) (v : Byte) : (s.setReg r v).ctl = s.ctl := by cases r <;> rfl

@[simp] theorem setReg_mem (s : State) (r : Reg) (v : Byte) : (s.setReg r v).mem = s.mem := by cases r <;> rfl

@[simp] theorem setReg_platform (s : State) (r : Reg) (v : Byte) :
    (s.setReg r v).platform = s.platform := by cases r <;> rfl

@[simp] theorem setReg_env (s : State) (r : Reg) (v : Byte) : (s.setReg r v).env = s.env := by cases r <;> rfl

@[simp] theorem setReg_tStates (s : State) (r : Reg) (v : Byte) :
    (s.setReg r v).tStates = s.tStates := by cases r <;> rfl

@[simp] theorem setPair_pc (s : State) (rp : Pair) (v : Word) : (s.setPair rp v).pc = s.pc := by cases rp <;> rfl

@[simp] theorem setPair_flags (s : State) (rp : Pair) (v : Word) :
    (s.setPair rp v).flags = s.flags := by cases rp <;> rfl

@[simp] theorem setPair_ctl (s : State) (rp : Pair) (v : Word) : (s.setPair rp v).ctl = s.ctl := by cases rp <;> rfl

@[simp] theorem setPair_mem (s : State) (rp : Pair) (v : Word) : (s.setPair rp v).mem = s.mem := by cases rp <;> rfl

@[simp] theorem setPair_platform (s : State) (rp : Pair) (v : Word) :
    (s.setPair rp v).platform = s.platform := by cases rp <;> rfl

@[simp] theorem setPair_env (s : State) (rp : Pair) (v : Word) : (s.setPair rp v).env = s.env := by cases rp <;> rfl

@[simp] theorem setPair_tStates (s : State) (rp : Pair) (v : Word) :
    (s.setPair rp v).tStates = s.tStates := by cases rp <;> rfl

@[simp] theorem setPair_sp_self (s : State) (v : Word) : (s.setPair .sp v).sp = v := rfl

@[simp] theorem setPair_bc_sp (s : State) (v : Word) : (s.setPair .bc v).sp = s.sp := rfl

@[simp] theorem setPair_de_sp (s : State) (v : Word) : (s.setPair .de v).sp = s.sp := rfl

@[simp] theorem setPair_hl_sp (s : State) (v : Word) : (s.setPair .hl v).sp = s.sp := rfl

@[simp] theorem setPair_stack_sp (s : State) (rp : StackPair) (v : Word) :
    (s.setPair (pairOfStackPair rp) v).sp = s.sp := by cases rp <;> rfl

@[simp] theorem setReg_b_regs (s : State) (v : Byte) : (s.setReg .b v).regs = { s.regs with b := v } := rfl

@[simp] theorem setReg_c_regs (s : State) (v : Byte) : (s.setReg .c v).regs = { s.regs with c := v } := rfl

@[simp] theorem setReg_d_regs (s : State) (v : Byte) : (s.setReg .d v).regs = { s.regs with d := v } := rfl

@[simp] theorem setReg_e_regs (s : State) (v : Byte) : (s.setReg .e v).regs = { s.regs with e := v } := rfl

@[simp] theorem setReg_h_regs (s : State) (v : Byte) : (s.setReg .h v).regs = { s.regs with h := v } := rfl

@[simp] theorem setReg_l_regs (s : State) (v : Byte) : (s.setReg .l v).regs = { s.regs with l := v } := rfl

@[simp] theorem setReg_a_regs (s : State) (v : Byte) : (s.setReg .a v).regs = { s.regs with a := v } := rfl

@[simp] theorem setPair_bc_regs (s : State) (v : Word) :
    (s.setPair .bc v).regs = { s.regs with b := highByte v, c := lowByte v } := rfl

@[simp] theorem setPair_de_regs (s : State) (v : Word) :
    (s.setPair .de v).regs = { s.regs with d := highByte v, e := lowByte v } := rfl

@[simp] theorem setPair_hl_regs (s : State) (v : Word) :
    (s.setPair .hl v).regs = { s.regs with h := highByte v, l := lowByte v } := rfl

@[simp] theorem setPair_sp_regs (s : State) (v : Word) : (s.setPair .sp v).regs = s.regs := rfl

/-! ## Reading registers -/

@[simp] theorem reg_b (s : State) : s.reg .b = s.regs.b := rfl

@[simp] theorem reg_c (s : State) : s.reg .c = s.regs.c := rfl

@[simp] theorem reg_d (s : State) : s.reg .d = s.regs.d := rfl

@[simp] theorem reg_e (s : State) : s.reg .e = s.regs.e := rfl

@[simp] theorem reg_h (s : State) : s.reg .h = s.regs.h := rfl

@[simp] theorem reg_l (s : State) : s.reg .l = s.regs.l := rfl

@[simp] theorem reg_a (s : State) : s.reg .a = s.regs.a := rfl

@[simp] theorem pair_bc (s : State) : s.pair .bc = wordOf s.regs.b s.regs.c := rfl

@[simp] theorem pair_de (s : State) : s.pair .de = wordOf s.regs.d s.regs.e := rfl

@[simp] theorem pair_hl (s : State) : s.pair .hl = s.hl := rfl

@[simp] theorem pair_sp (s : State) : s.pair .sp = s.sp := rfl

theorem hl_eq (s : State) : s.hl = wordOf s.regs.h s.regs.l := rfl

/-- A register read sees `regs` and nothing else. -/
theorem reg_congr {s t : State} (h : t.regs = s.regs) (r : Reg) : t.reg r = s.reg r := by cases r <;> simp [h]

/-- H :: L sees `regs` and nothing else. -/
theorem hl_congr {s t : State} (h : t.regs = s.regs) : t.hl = s.hl := by simp [hl_eq, h]

/-- A pair read sees `regs` and SP and nothing else. -/
theorem pair_congr {s t : State} (h : t.regs = s.regs) (h' : t.sp = s.sp) (rp : Pair) : t.pair rp = s.pair rp := by
  cases rp <;> simp [h, h', hl_congr h]

@[simp] theorem setPc_reg (s : State) (v : Word) (r : Reg) :
    (s.setPc v).reg r = s.reg r := reg_congr rfl r

@[simp] theorem setPc_hl (s : State) (v : Word) : (s.setPc v).hl = s.hl := rfl

@[simp] theorem setSp_reg (s : State) (v : Word) (r : Reg) :
    (s.setSp v).reg r = s.reg r := reg_congr rfl r

@[simp] theorem setSp_hl (s : State) (v : Word) : (s.setSp v).hl = s.hl := rfl

@[simp] theorem setFlags_reg (s : State) (f : Flags) (r : Reg) :
    (s.setFlags f).reg r = s.reg r := reg_congr rfl r

@[simp] theorem setFlags_hl (s : State) (f : Flags) : (s.setFlags f).hl = s.hl := rfl

@[simp] theorem setCtl_reg (s : State) (c : Ctl) (r : Reg) :
    (s.setCtl c).reg r = s.reg r := reg_congr rfl r

@[simp] theorem setCtl_hl (s : State) (c : Ctl) : (s.setCtl c).hl = s.hl := rfl

@[simp] theorem setCy_reg (s : State) (c : Bool) (r : Reg) :
    (s.setCy c).reg r = s.reg r := reg_congr rfl r

@[simp] theorem setCy_hl (s : State) (c : Bool) : (s.setCy c).hl = s.hl := rfl

@[simp] theorem emit_reg (s : State) (e : Event) (r : Reg) :
    (s.emit e).reg r = s.reg r := reg_congr rfl r

@[simp] theorem emit_hl (s : State) (e : Event) : (s.emit e).hl = s.hl := rfl

@[simp] theorem countDraw_reg (s : State) (r : Reg) :
    (s.countDraw).reg r = s.reg r := reg_congr rfl r

@[simp] theorem countDraw_hl (s : State) : (s.countDraw).hl = s.hl := rfl

@[simp] theorem useBoundaryInput_reg (s : State) (r : Reg) :
    (s.useBoundaryInput).reg r = s.reg r := reg_congr rfl r

@[simp] theorem useBoundaryInput_hl (s : State) : (s.useBoundaryInput).hl = s.hl := rfl

@[simp] theorem latchEdge_reg (s : State) (q : IntQuery) (r : Reg) :
    (s.latchEdge q).reg r = s.reg r := reg_congr rfl r

@[simp] theorem latchEdge_hl (s : State) (q : IntQuery) : (s.latchEdge q).hl = s.hl := rfl

@[simp] theorem enableBookkeeping_reg (i : Instr) (e : Bool) (s : State) (r : Reg) :
    (s.enableBookkeeping i e).reg r = s.reg r := reg_congr rfl r

@[simp] theorem enableBookkeeping_hl (i : Instr) (e : Bool) (s : State) : (s.enableBookkeeping i e).hl = s.hl := rfl

@[simp] theorem countTStates_reg (t : State) (i : Instr) (before : State) (r : Reg) :
    (t.countTStates i before).reg r = t.reg r := reg_congr rfl r

@[simp] theorem countTStates_hl (t : State) (i : Instr) (before : State) : (t.countTStates i before).hl = t.hl := rfl

/-- A register holds what was last written to it (10_state.md R21). -/
theorem reg_setReg (s : State) (r r' : Reg) (v : Byte) : (s.setReg r v).reg r' = if r' = r then v else s.reg r' := by
  cases r <;> cases r' <;> rfl

@[simp] theorem reg_setReg_same (s : State) (r : Reg) (v : Byte) : (s.setReg r v).reg r = v := by cases r <;> rfl

theorem reg_setReg_ne (s : State) {r r' : Reg} (v : Byte) (h : r' ≠ r) : (s.setReg r v).reg r' = s.reg r' := by
  simp [reg_setReg, h]

/-! ## The halves of a 16-bit quantity (00_scope.md R8, R9) -/

theorem wordOf_getLsbD (hi lo : Byte) (i : Nat) :
    (wordOf hi lo).getLsbD i = if i < 8 then lo.getLsbD i else hi.getLsbD (i - 8) := BitVec.getLsbD_append

@[simp] theorem lowByte_wordOf (hi lo : Byte) : lowByte (wordOf hi lo) = lo := by
  apply BitVec.eq_of_getLsbD_eq
  intro i h
  simp [lowByte, wordOf_getLsbD, h]

@[simp] theorem highByte_wordOf (hi lo : Byte) : highByte (wordOf hi lo) = hi := by
  apply BitVec.eq_of_getLsbD_eq
  intro i h
  simp [highByte, wordOf_getLsbD, h]

@[simp] theorem wordOf_highByte_lowByte (w : Word) : wordOf (highByte w) (lowByte w) = w := by
  apply BitVec.eq_of_getLsbD_eq
  intro i h
  by_cases h8 : i < 8
  · simp [highByte, lowByte, wordOf_getLsbD, h8]
  · have h9 : 8 + (i - 8) = i := by omega
    have h7 : i - 8 < 8 := by omega
    simp [highByte, wordOf_getLsbD, h8, h9, h7]

theorem wordOf_toNat (hi lo : Byte) : (wordOf hi lo).toNat = 256 * hi.toNat + lo.toNat := by
  simp only [wordOf, BitVec.toNat_append]
  have := lo.isLt
  rw [Nat.shiftLeft_eq, Nat.mul_comm, ← Nat.two_pow_add_eq_or_of_lt (i := 8) this]

/-- A pair holds what was last written to it (10_state.md R22). -/
@[simp] theorem pair_setPair_same (s : State) (rp : Pair) (v : Word) : (s.setPair rp v).pair rp = v := by
  cases rp <;> simp [hl_eq]

/-- The registers outside a pair are as they were. -/
theorem reg_setPair_ne (s : State) (rp : Pair) (v : Word) (r : Reg) (h : r ∉ regsOfPair rp) :
    (s.setPair rp v).reg r = s.reg r := by
  cases rp <;> cases r <;> simp_all [regsOfPair]

end Sys2Proof.Machine
end

