-- ==== Sys2Proof/Laws/Memory.lean ====
section
/-! SUPPORT. The laws of RAM: a read after a write, what a write leaves alone, and that every operation keeps the canonical
form `Memory.wf` (20_memory.md R50, R53, R54). -/

namespace Sys2Proof.Machine

/-! ## The list of cells -/

theorem lookupCell_eraseCell (a b : Nat) (l : List Host.Cell) :
    lookupCell b (eraseCell a l) = if b = a then none else lookupCell b l := by
  induction l with
  | nil => simp [eraseCell, lookupCell]
  | cons c rest ih =>
    obtain ⟨k, v⟩ := c
    by_cases h : k = a <;> by_cases h' : k = b <;> by_cases h'' : b = a <;> simp_all [eraseCell, lookupCell]

theorem lookupCell_insertCell (a b : Nat) (v : Byte) (l : List Host.Cell) :
    lookupCell b (insertCell a v l) = if b = a then some v else lookupCell b l := by
  induction l with
  | nil => simp [insertCell, lookupCell, @eq_comm _ a b]
  | cons c rest ih =>
    obtain ⟨k, w⟩ := c
    simp only [insertCell]
    split
    · simp [lookupCell, @eq_comm _ a b]
    · split
      · subst k
        by_cases h : a = b <;> simp [lookupCell, h, @eq_comm _ b a]
      · by_cases h : b = a
        · subst h; simp [lookupCell, *]
        · simp [lookupCell, ih, h]

theorem mem_eraseCell {a : Nat} {c : Host.Cell} {l : List Host.Cell} (h : c ∈ eraseCell a l) : c ∈ l ∧ c.1 ≠ a := by
  induction l with
  | nil => simp [eraseCell] at h
  | cons d rest ih =>
    obtain ⟨k, v⟩ := d
    simp only [eraseCell] at h
    split at h
    · exact ⟨List.mem_cons_of_mem _ (ih h).1, (ih h).2⟩
    · rcases List.mem_cons.1 h with rfl | h
      · exact ⟨List.mem_cons_self, by assumption⟩
      · exact ⟨List.mem_cons_of_mem _ (ih h).1, (ih h).2⟩

theorem mem_insertCell {a : Nat} {v : Byte} {c : Host.Cell} {l : List Host.Cell} (h : c ∈ insertCell a v l) :
    c = (a, v) ∨ c ∈ l := by
  induction l with
  | nil => simp_all [insertCell]
  | cons d rest ih =>
    obtain ⟨k, w⟩ := d
    simp only [insertCell] at h
    split at h
    · rcases List.mem_cons.1 h with rfl | h
      · exact .inl rfl
      · exact .inr h
    · split at h
      · rcases List.mem_cons.1 h with rfl | h
        · exact .inl rfl
        · exact .inr (List.mem_cons_of_mem _ h)
      · rcases List.mem_cons.1 h with rfl | h
        · exact .inr List.mem_cons_self
        · exact (ih h).imp id (List.mem_cons_of_mem _)

theorem pairwise_eraseCell {a : Nat} {l : List Host.Cell} (h : l.Pairwise (fun x y => x.1 < y.1)) :
    (eraseCell a l).Pairwise (fun x y => x.1 < y.1) := by
  induction l with
  | nil => simp [eraseCell]
  | cons d rest ih =>
    obtain ⟨k, v⟩ := d
    obtain ⟨h1, h2⟩ := List.pairwise_cons.1 h
    simp only [eraseCell]
    split
    · exact ih h2
    · exact List.pairwise_cons.2 ⟨fun c hc => h1 c (mem_eraseCell hc).1, ih h2⟩

theorem pairwise_insertCell {a : Nat} {v : Byte} {l : List Host.Cell} (h : l.Pairwise (fun x y => x.1 < y.1)) :
    (insertCell a v l).Pairwise (fun x y => x.1 < y.1) := by
  induction l with
  | nil => simp [insertCell]
  | cons d rest ih =>
    obtain ⟨k, w⟩ := d
    obtain ⟨h1, h2⟩ := List.pairwise_cons.1 h
    simp only [insertCell]
    split
    · rename_i hlt
      refine List.pairwise_cons.2 ⟨fun c hc => ?_, h⟩
      rcases List.mem_cons.1 hc with rfl | hc
      · exact hlt
      · exact Nat.lt_trans hlt (h1 c hc)
    · split
      · subst k
        exact List.pairwise_cons.2 ⟨h1, h2⟩
      · refine List.pairwise_cons.2 ⟨fun c hc => ?_, ih h2⟩
        rcases mem_insertCell hc with rfl | hc
        · simp only; omega
        · exact h1 c hc

/-! ## Reading and writing a byte of RAM -/

/-- A byte reads as what was last written to it; every other byte reads as before. -/
theorem Memory.read_write (m : Memory) (a b : Nat) (v : Byte) :
    (m.write a v).read b = if b = a then v else m.read b := by
  by_cases h : v = unlistedByte m.epoch a <;> by_cases h' : b = a <;>
    simp [Memory.read, Memory.write, h, h', lookupCell_eraseCell, lookupCell_insertCell]

@[simp] theorem Memory.read_write_same (m : Memory) (a : Nat) (v : Byte) : (m.write a v).read a = v := by
  simp [Memory.read_write]

theorem Memory.read_write_ne (m : Memory) {a b : Nat} (v : Byte) (h : b ≠ a) : (m.write a v).read b = m.read b := by
  simp [Memory.read_write, h]

@[simp] theorem Memory.write_epoch (m : Memory) (a : Nat) (v : Byte) : (m.write a v).epoch = m.epoch := rfl

/-- A write keeps the canonical form. -/
theorem Memory.wf_write {m : Memory} (h : m.wf) {a : Nat} (ha : a < 65536) (v : Byte) : (m.write a v).wf := by
  obtain ⟨h1, h2⟩ := h
  by_cases hv : v = unlistedByte m.epoch a
  · simp only [Memory.write, if_pos hv]
    exact ⟨pairwise_eraseCell h1, fun c hc => h2 c (mem_eraseCell hc).1⟩
  · simp only [Memory.write, if_neg hv]
    refine ⟨pairwise_insertCell h1, fun c hc => ?_⟩
    rcases mem_insertCell hc with rfl | hc
    · exact ⟨ha, hv⟩
    · exact h2 c hc

/-- RAM that lists nothing is in the canonical form: at power-up and after a reset event. -/
theorem Memory.wf_empty (n : Nat) : Memory.wf { epoch := n, cells := [] } := by simp [Memory.wf]

/-- Memory right after reset is in the canonical form, on every platform. -/
theorem powerUp_mem_wf (p : Platform) : (State.powerUp p).mem.wf := Memory.wf_empty 0

theorem reset_mem_wf : State.reset.mem.wf := powerUp_mem_wf _

/-! ## `MemRead` and `MemWrite` of one byte (20_memory.md R53, R54) -/

section
variable (s : State) (a : Word)

/-- Everything a read of a location that is no memory can do: one input byte is used or one free value drawn. -/
theorem busDraw_cases :
    (∃ v rest, s.env.bus = v :: rest ∧ s.busDraw a = (v, { s with env := { s.env with bus := rest } })) ∨
      (s.env.bus = [] ∧ s.busDraw a = (Config.busByte s.env.draws a, s.countDraw)) := by
  cases h : s.env.bus with
  | nil => exact .inr ⟨rfl, by simp [State.busDraw, h]⟩
  | cons v rest => exact .inl ⟨v, rest, rfl, by simp [State.busDraw, h]⟩

theorem busDraw_state : (s.busDraw a).2 = { s with env := (s.busDraw a).2.env } := by
  rcases busDraw_cases s a with ⟨v, rest, -, h⟩ | ⟨-, h⟩
  · rw [h]
  · rw [h]
    rfl

/-- A read changes nothing but `env`. -/
theorem memRead_state : (s.memRead a).2 = { s with env := (s.memRead a).2.env } := by
  simp only [State.memRead]
  split
  · rfl
  · rfl
  · exact busDraw_state s a
  · rw [busDraw_state]
    rfl

@[simp] theorem memRead_regs : (s.memRead a).2.regs = s.regs := by rw [memRead_state]
@[simp] theorem memRead_sp : (s.memRead a).2.sp = s.sp := by rw [memRead_state]
@[simp] theorem memRead_pc : (s.memRead a).2.pc = s.pc := by rw [memRead_state]
@[simp] theorem memRead_flags : (s.memRead a).2.flags = s.flags := by rw [memRead_state]
@[simp] theorem memRead_ctl : (s.memRead a).2.ctl = s.ctl := by rw [memRead_state]
@[simp] theorem memRead_mem : (s.memRead a).2.mem = s.mem := by rw [memRead_state]
@[simp] theorem memRead_platform : (s.memRead a).2.platform = s.platform := by rw [memRead_state]
@[simp] theorem memRead_tStates : (s.memRead a).2.tStates = s.tStates := by rw [memRead_state]

@[simp] theorem memRead_reg (r : Reg) : (s.memRead a).2.reg r = s.reg r := reg_congr (memRead_regs s a) r
@[simp] theorem memRead_hl : (s.memRead a).2.hl = s.hl := hl_congr (memRead_regs s a)

/-- The byte of a read, under its one name. -/
@[simp] theorem memRead_fst : (s.memRead a).1 = s.byteAt a := rfl

theorem memRead_of_ram (h : kindAt s.platform a = .ram) : s.memRead a = (s.mem.read a.toNat, s) := by
  simp [State.memRead, h]

/-- Where memory answers, a read changes nothing at all. -/
theorem memRead_of_plain (h : PlainAt s a) : s.memRead a = (s.byteAt a, s) := by
  rcases h with h | h <;> simp [State.byteAt, State.memRead, h]

/-- Everything a one-byte write can do. -/
theorem memWrite_state (v : Byte) :
    s.memWrite a v =
      { s with
        mem := if kindAt s.platform a = .ram then s.mem.write a.toNat v else s.mem
        env := if kindAt s.platform a = .device then { s.env with trace := s.env.trace ++ [.deviceWrite a v] } else s.env } := by
  cases h : kindAt s.platform a <;> simp [State.memWrite, h, State.emit]

theorem memWrite_of_ram (v : Byte) (h : kindAt s.platform a = .ram) :
    s.memWrite a v = { s with mem := s.mem.write a.toNat v } := by simp [State.memWrite, h]

@[simp] theorem memWrite_regs (v : Byte) : (s.memWrite a v).regs = s.regs := by rw [memWrite_state]
@[simp] theorem memWrite_sp (v : Byte) : (s.memWrite a v).sp = s.sp := by rw [memWrite_state]
@[simp] theorem memWrite_pc (v : Byte) : (s.memWrite a v).pc = s.pc := by rw [memWrite_state]
@[simp] theorem memWrite_flags (v : Byte) : (s.memWrite a v).flags = s.flags := by rw [memWrite_state]
@[simp] theorem memWrite_ctl (v : Byte) : (s.memWrite a v).ctl = s.ctl := by rw [memWrite_state]
@[simp] theorem memWrite_platform (v : Byte) : (s.memWrite a v).platform = s.platform := by rw [memWrite_state]
@[simp] theorem memWrite_tStates (v : Byte) : (s.memWrite a v).tStates = s.tStates := by rw [memWrite_state]
@[simp] theorem memWrite_reg (v : Byte) (r : Reg) : (s.memWrite a v).reg r = s.reg r := reg_congr (memWrite_regs s a v) r
@[simp] theorem memWrite_hl (v : Byte) : (s.memWrite a v).hl = s.hl := hl_congr (memWrite_regs s a v)
@[simp] theorem memWrite_epoch (v : Byte) : (s.memWrite a v).mem.epoch = s.mem.epoch := by
  rw [memWrite_state]
  simp only
  split
  · rfl
  · rfl

/-- What RAM holds after a write, at every address. -/
theorem memWrite_read (v : Byte) (b : Nat) :
    (s.memWrite a v).mem.read b =
      if b = a.toNat ∧ kindAt s.platform a = .ram then v else s.mem.read b := by
  rw [memWrite_state]
  by_cases h : kindAt s.platform a = .ram <;> simp [h, Memory.read_write]

/-- A write keeps the canonical form. -/
theorem memWrite_wf {s : State} (h : s.mem.wf) (a : Word) (v : Byte) : (s.memWrite a v).mem.wf := by
  rw [memWrite_state]
  simp only
  split
  · exact Memory.wf_write h a.isLt v
  · exact h

end

/-- One stored byte, in the words of `StoresBytes`. -/
theorem storesBytes_one (s : State) (a : Word) (v : Byte) : StoresBytes [(a, v)] s (s.memWrite a v) := by
  constructor
  · intro p hp
    obtain rfl := List.mem_singleton.1 hp
    simp [memWrite_read]
  · intro b hb
    have : b.toNat ≠ a.toNat := fun h => hb (by simp [BitVec.eq_of_toNat_eq h])
    simp [memWrite_read, this]

/-- `StoresBytes` sees RAM and the platform of the first state, and RAM of the second, and nothing else. -/
theorem storesBytes_congr {ps : List (Word × Byte)} {s s' t t' : State} (h : StoresBytes ps s t) (hm : s'.mem = s.mem)
    (hp : s'.platform = s.platform) (ht : t'.mem = t.mem) : StoresBytes ps s' t' := by
  obtain ⟨h1, h2⟩ := h
  refine ⟨fun p hp' => ?_, fun a ha => ?_⟩
  · rw [ht, hm, hp]; exact h1 p hp'
  · rw [ht, hm]; exact h2 a ha

/-- Two stored bytes at different addresses, in the words of `StoresBytes`. -/
theorem storesBytes_two (s : State) {a b : Word} (v w : Byte) (h : a ≠ b) :
    StoresBytes [(a, v), (b, w)] s ((s.memWrite a v).memWrite b w) := by
  have hn : a.toNat ≠ b.toNat := fun h' => h (BitVec.eq_of_toNat_eq h')
  constructor
  · intro p hp
    rcases List.mem_cons.1 hp with rfl | hp
    · simp [memWrite_read, hn]
    · obtain rfl := List.mem_singleton.1 hp
      simp only [memWrite_read, memWrite_platform]
      simp [hn.symm]
  · intro c hc
    have h1 : c.toNat ≠ a.toNat := fun h => hc (by simp [BitVec.eq_of_toNat_eq h])
    have h2 : c.toNat ≠ b.toNat := fun h => hc (by simp [BitVec.eq_of_toNat_eq h])
    simp [memWrite_read, h1, h2]

end Sys2Proof.Machine
end

