-- ==== Sys2Proof/Laws/Ops.lean ====
section
/-! SUPPORT. One lemma for each shared operation that says what it can do, and the fields it leaves alone. -/

namespace Sys2Proof.Machine

/-! ## What a write shows the environment (20_memory.md R54) -/

/-- A write changes the environment's side by the output event of a device location, if it is one. -/
theorem memWrite_env (s : State) (a : Word) (v : Byte) :
    (s.memWrite a v).env = { s.env with trace := s.env.trace ++ deviceEvents s.platform [(a, v)] } := by
  cases h : kindAt s.platform a <;> simp [State.memWrite, deviceEvents, h]

/-! ## Two-byte accesses (00_scope.md R11) -/

@[simp] theorem memRead2_regs (s : State) (a : Word) : ((s.memRead2 a).2).regs = s.regs := by simp [State.memRead2]
@[simp] theorem memRead2_sp (s : State) (a : Word) : ((s.memRead2 a).2).sp = s.sp := by simp [State.memRead2]
@[simp] theorem memRead2_pc (s : State) (a : Word) : ((s.memRead2 a).2).pc = s.pc := by simp [State.memRead2]
@[simp] theorem memRead2_flags (s : State) (a : Word) : ((s.memRead2 a).2).flags = s.flags := by simp [State.memRead2]
@[simp] theorem memRead2_ctl (s : State) (a : Word) : ((s.memRead2 a).2).ctl = s.ctl := by simp [State.memRead2]
@[simp] theorem memRead2_mem (s : State) (a : Word) : ((s.memRead2 a).2).mem = s.mem := by simp [State.memRead2]
@[simp] theorem memRead2_platform (s : State) (a : Word) : ((s.memRead2 a).2).platform = s.platform := by
  simp [State.memRead2]
@[simp] theorem memRead2_tStates (s : State) (a : Word) : ((s.memRead2 a).2).tStates = s.tStates := by
  simp [State.memRead2]
@[simp] theorem memRead2_reg (s : State) (a : Word) (r : Reg) : ((s.memRead2 a).2).reg r = s.reg r :=
  reg_congr (memRead2_regs _ _) r
@[simp] theorem memRead2_hl (s : State) (a : Word) : ((s.memRead2 a).2).hl = s.hl := hl_congr (memRead2_regs _ _)

/-- A two-byte read: the low-order byte from `a`, then the high-order byte from `a + 1`. -/
theorem memRead2_spec (s : State) (a : Word) :
    s.memRead2 a =
      (wordOf ((s.memRead a).2.byteAt (a + 1)) (s.byteAt a), ((s.memRead a).2.memRead (a + 1)).2) := rfl

theorem memRead2_of_ram (s : State) (a : Word) (h : kindAt s.platform a = .ram) (h' : kindAt s.platform (a + 1) = .ram) :
    s.memRead2 a = (wordOf (s.mem.read (a + 1).toNat) (s.mem.read a.toNat), s) := by
  simp only [State.memRead2, memRead_of_ram s a h, memRead_of_ram s (a + 1) h']

@[simp] theorem memWrite2_regs (s : State) (a v : Word) : (s.memWrite2 a v).regs = s.regs := by simp [State.memWrite2]
@[simp] theorem memWrite2_sp (s : State) (a v : Word) : (s.memWrite2 a v).sp = s.sp := by simp [State.memWrite2]
@[simp] theorem memWrite2_pc (s : State) (a v : Word) : (s.memWrite2 a v).pc = s.pc := by simp [State.memWrite2]
@[simp] theorem memWrite2_flags (s : State) (a v : Word) : (s.memWrite2 a v).flags = s.flags := by
  simp [State.memWrite2]
@[simp] theorem memWrite2_ctl (s : State) (a v : Word) : (s.memWrite2 a v).ctl = s.ctl := by simp [State.memWrite2]
@[simp] theorem memWrite2_platform (s : State) (a v : Word) : (s.memWrite2 a v).platform = s.platform := by
  simp [State.memWrite2]
@[simp] theorem memWrite2_tStates (s : State) (a v : Word) : (s.memWrite2 a v).tStates = s.tStates := by
  simp [State.memWrite2]
@[simp] theorem memWrite2_reg (s : State) (a v : Word) (r : Reg) : (s.memWrite2 a v).reg r = s.reg r :=
  reg_congr (memWrite2_regs _ _ _) r
@[simp] theorem memWrite2_hl (s : State) (a v : Word) : (s.memWrite2 a v).hl = s.hl := hl_congr (memWrite2_regs _ _ _)

/-- A two-byte write keeps the canonical form. -/
theorem memWrite2_wf {s : State} (h : s.mem.wf) (a v : Word) : (s.memWrite2 a v).mem.wf := memWrite_wf (memWrite_wf h _ _) _ _

/-! ## Ports (20_memory.md R52) -/

/-- Everything `IoRead` can do: the access is recorded, and one input byte is used or one free value drawn. -/
theorem ioRead_cases (s : State) (port : Byte) :
    (∃ v rest, s.env.io = v :: rest ∧
        s.ioRead port = (v, { s with env := { s.env with io := rest, trace := s.env.trace ++ [.ioRead port] } })) ∨
      (s.env.io = [] ∧
        s.ioRead port = (Config.ioByte s.env.draws port,
          { s with env := { s.env with draws := s.env.draws + 1, trace := s.env.trace ++ [.ioRead port] } })) := by
  cases h : s.env.io with
  | nil => exact .inr ⟨rfl, by simp [State.ioRead, h, State.countDraw, State.emit]⟩
  | cons v rest => exact .inl ⟨v, rest, rfl, by simp [State.ioRead, h, State.emit]⟩

/-- `IoRead` changes nothing but `env`. -/
theorem ioRead_state (s : State) (port : Byte) : (s.ioRead port).2 = { s with env := (s.ioRead port).2.env } := by
  rcases ioRead_cases s port with ⟨v, rest, -, h⟩ | ⟨-, h⟩ <;> rw [h]

@[simp] theorem ioRead_regs (s : State) (port : Byte) : ((s.ioRead port).2).regs = s.regs := by rw [ioRead_state]
@[simp] theorem ioRead_sp (s : State) (port : Byte) : ((s.ioRead port).2).sp = s.sp := by rw [ioRead_state]
@[simp] theorem ioRead_pc (s : State) (port : Byte) : ((s.ioRead port).2).pc = s.pc := by rw [ioRead_state]
@[simp] theorem ioRead_flags (s : State) (port : Byte) : ((s.ioRead port).2).flags = s.flags := by rw [ioRead_state]
@[simp] theorem ioRead_ctl (s : State) (port : Byte) : ((s.ioRead port).2).ctl = s.ctl := by rw [ioRead_state]
@[simp] theorem ioRead_mem (s : State) (port : Byte) : ((s.ioRead port).2).mem = s.mem := by rw [ioRead_state]
@[simp] theorem ioRead_platform (s : State) (port : Byte) : ((s.ioRead port).2).platform = s.platform := by
  rw [ioRead_state]
@[simp] theorem ioRead_tStates (s : State) (port : Byte) : ((s.ioRead port).2).tStates = s.tStates := by
  rw [ioRead_state]
@[simp] theorem ioRead_reg (s : State) (port : Byte) (r : Reg) : ((s.ioRead port).2).reg r = s.reg r :=
  reg_congr (ioRead_regs _ _) r
@[simp] theorem ioRead_hl (s : State) (port : Byte) : ((s.ioRead port).2).hl = s.hl := hl_congr (ioRead_regs _ _)

@[simp] theorem ioWrite_eq (s : State) (port v : Byte) : s.ioWrite port v = s.emit (.ioWrite port v) := rfl

/-! ## The stack (10_state.md R24) -/

@[simp] theorem push16_regs (s : State) (v : Word) : (s.push16 v).regs = s.regs := by simp [State.push16]
@[simp] theorem push16_pc (s : State) (v : Word) : (s.push16 v).pc = s.pc := by simp [State.push16]
@[simp] theorem push16_flags (s : State) (v : Word) : (s.push16 v).flags = s.flags := by simp [State.push16]
@[simp] theorem push16_ctl (s : State) (v : Word) : (s.push16 v).ctl = s.ctl := by simp [State.push16]
@[simp] theorem push16_platform (s : State) (v : Word) : (s.push16 v).platform = s.platform := by simp [State.push16]
@[simp] theorem push16_tStates (s : State) (v : Word) : (s.push16 v).tStates = s.tStates := by simp [State.push16]
@[simp] theorem push16_reg (s : State) (v : Word) (r : Reg) : (s.push16 v).reg r = s.reg r :=
  reg_congr (push16_regs _ _) r
@[simp] theorem push16_hl (s : State) (v : Word) : (s.push16 v).hl = s.hl := hl_congr (push16_regs _ _)

@[simp] theorem push16_sp (s : State) (v : Word) : (s.push16 v).sp = s.sp - 2 := rfl

@[simp] theorem push16_env (s : State) (v : Word) :
    (s.push16 v).env = ((s.memWrite (s.sp - 1) (highByte v)).memWrite (s.sp - 2) (lowByte v)).env := rfl

theorem push16_mem (s : State) (v : Word) :
    (s.push16 v).mem = ((s.memWrite (s.sp - 1) (highByte v)).memWrite (s.sp - 2) (lowByte v)).mem := rfl

/-- The two stack addresses of a push differ. -/
theorem stack_ne (w : Word) : w - 1 ≠ w - 2 := by bv_omega

/-- The two bytes a push stores. -/
theorem push16_stores (s : State) (v : Word) :
    StoresBytes [(s.sp - 1, highByte v), (s.sp - 2, lowByte v)] s (s.push16 v) :=
  storesBytes_two s _ _ (stack_ne s.sp)

theorem push16_wf {s : State} (h : s.mem.wf) (v : Word) : (s.push16 v).mem.wf := memWrite_wf (memWrite_wf h _ _) _ _

@[simp] theorem pop16_regs (s : State) : (s.pop16.2).regs = s.regs := by simp [State.pop16]
@[simp] theorem pop16_pc (s : State) : (s.pop16.2).pc = s.pc := by simp [State.pop16]
@[simp] theorem pop16_flags (s : State) : (s.pop16.2).flags = s.flags := by simp [State.pop16]
@[simp] theorem pop16_ctl (s : State) : (s.pop16.2).ctl = s.ctl := by simp [State.pop16]
@[simp] theorem pop16_mem (s : State) : (s.pop16.2).mem = s.mem := by simp [State.pop16]
@[simp] theorem pop16_platform (s : State) : (s.pop16.2).platform = s.platform := by simp [State.pop16]
@[simp] theorem pop16_tStates (s : State) : (s.pop16.2).tStates = s.tStates := by simp [State.pop16]
@[simp] theorem pop16_reg (s : State) (r : Reg) : (s.pop16.2).reg r = s.reg r :=
  reg_congr (pop16_regs _) r
@[simp] theorem pop16_hl (s : State) : (s.pop16.2).hl = s.hl := hl_congr (pop16_regs _)

@[simp] theorem pop16_sp (s : State) : s.pop16.2.sp = s.sp + 2 := rfl

@[simp] theorem pop16_env (s : State) : s.pop16.2.env = ((s.memRead s.sp).2.memRead (s.sp + 1)).2.env := rfl

@[simp] theorem pop16_low (s : State) : lowByte s.pop16.1 = s.byteAt s.sp := by simp [State.pop16, memRead2_spec]

@[simp] theorem pop16_high (s : State) : highByte s.pop16.1 = (s.memRead s.sp).2.byteAt (s.sp + 1) := by
  simp [State.pop16, memRead2_spec]

theorem pop16_of_ram (s : State) (h : kindAt s.platform s.sp = .ram) (h' : kindAt s.platform (s.sp + 1) = .ram) :
    s.pop16 = (wordOf (s.mem.read (s.sp + 1).toNat) (s.mem.read s.sp.toNat), s.setSp (s.sp + 2)) := by
  simp only [State.pop16, memRead2_of_ram s s.sp h h']

/-- Where the stack lies in RAM a pop returns what a push has just stored, and SP is back. -/
theorem pop16_push16 (s : State) (v : Word) (h : kindAt s.platform (s.sp - 1) = .ram)
    (h' : kindAt s.platform (s.sp - 2) = .ram) : (s.push16 v).pop16 = (v, (s.push16 v).setSp s.sp) := by
  have e1 : s.sp - 2 + 1 = s.sp - 1 := by bv_omega
  have e2 : s.sp - 2 + 2 = s.sp := by bv_omega
  have hn : (s.sp - 1).toNat ≠ (s.sp - 2).toNat := fun hh => stack_ne s.sp (BitVec.eq_of_toNat_eq hh)
  rw [pop16_of_ram _ (by rw [push16_sp, push16_platform, h']) (by rw [push16_sp, push16_platform, e1, h])]
  simp only [push16_sp, push16_mem, memWrite_read, memWrite_platform, e1, e2, h, h', hn, and_self, and_true, if_true,
    if_false, wordOf_highByte_lowByte]

/-! ## The accumulator (41_arithmetic.md, 42_logical.md) -/

@[simp] theorem setAluA_sp (s : State) (r : AluOut) : (s.setAluA r).sp = s.sp := by simp [State.setAluA]
@[simp] theorem setAluA_pc (s : State) (r : AluOut) : (s.setAluA r).pc = s.pc := by simp [State.setAluA]
@[simp] theorem setAluA_ctl (s : State) (r : AluOut) : (s.setAluA r).ctl = s.ctl := by simp [State.setAluA]
@[simp] theorem setAluA_mem (s : State) (r : AluOut) : (s.setAluA r).mem = s.mem := by simp [State.setAluA]
@[simp] theorem setAluA_platform (s : State) (r : AluOut) : (s.setAluA r).platform = s.platform := by
  simp [State.setAluA]
@[simp] theorem setAluA_env (s : State) (r : AluOut) : (s.setAluA r).env = s.env := by simp [State.setAluA]
@[simp] theorem setAluA_tStates (s : State) (r : AluOut) : (s.setAluA r).tStates = s.tStates := by
  simp [State.setAluA]

@[simp] theorem setAluA_regs (s : State) (r : AluOut) : (s.setAluA r).regs = { s.regs with a := r.result } := by simp [State.setAluA]
@[simp] theorem setAluA_flags (s : State) (r : AluOut) : (s.setAluA r).flags = r.flags := by simp [State.setAluA]

@[simp] theorem setLogicA_sp (s : State) (v : Byte) (ac : Bool) : (s.setLogicA v ac).sp = s.sp := by
  simp [State.setLogicA]
@[simp] theorem setLogicA_pc (s : State) (v : Byte) (ac : Bool) : (s.setLogicA v ac).pc = s.pc := by
  simp [State.setLogicA]
@[simp] theorem setLogicA_ctl (s : State) (v : Byte) (ac : Bool) : (s.setLogicA v ac).ctl = s.ctl := by
  simp [State.setLogicA]
@[simp] theorem setLogicA_mem (s : State) (v : Byte) (ac : Bool) : (s.setLogicA v ac).mem = s.mem := by
  simp [State.setLogicA]
@[simp] theorem setLogicA_platform (s : State) (v : Byte) (ac : Bool) : (s.setLogicA v ac).platform = s.platform := by
  simp [State.setLogicA]
@[simp] theorem setLogicA_env (s : State) (v : Byte) (ac : Bool) : (s.setLogicA v ac).env = s.env := by
  simp [State.setLogicA]
@[simp] theorem setLogicA_tStates (s : State) (v : Byte) (ac : Bool) : (s.setLogicA v ac).tStates = s.tStates := by
  simp [State.setLogicA]

@[simp] theorem setLogicA_regs (s : State) (v : Byte) (ac : Bool) : (s.setLogicA v ac).regs = { s.regs with a := v } := by simp [State.setLogicA]
@[simp] theorem setLogicA_flags (s : State) (v : Byte) (ac : Bool) : (s.setLogicA v ac).flags = logicFlags v ac := by simp [State.setLogicA]

@[simp] theorem rotA_sp (s : State) (v : Byte) (c : Bool) : (s.rotA v c).sp = s.sp := by simp [State.rotA]
@[simp] theorem rotA_pc (s : State) (v : Byte) (c : Bool) : (s.rotA v c).pc = s.pc := by simp [State.rotA]
@[simp] theorem rotA_ctl (s : State) (v : Byte) (c : Bool) : (s.rotA v c).ctl = s.ctl := by simp [State.rotA]
@[simp] theorem rotA_mem (s : State) (v : Byte) (c : Bool) : (s.rotA v c).mem = s.mem := by simp [State.rotA]
@[simp] theorem rotA_platform (s : State) (v : Byte) (c : Bool) : (s.rotA v c).platform = s.platform := by
  simp [State.rotA]
@[simp] theorem rotA_env (s : State) (v : Byte) (c : Bool) : (s.rotA v c).env = s.env := by simp [State.rotA]
@[simp] theorem rotA_tStates (s : State) (v : Byte) (c : Bool) : (s.rotA v c).tStates = s.tStates := by
  simp [State.rotA]

@[simp] theorem rotA_regs (s : State) (v : Byte) (c : Bool) : (s.rotA v c).regs = { s.regs with a := v } := by simp [State.rotA]
@[simp] theorem rotA_flags (s : State) (v : Byte) (c : Bool) : (s.rotA v c).flags = { s.flags with cy := c } := by simp [State.rotA]

@[simp] theorem cmpA_regs (s : State) (b : Byte) : (s.cmpA b).regs = s.regs := by simp [State.cmpA]
@[simp] theorem cmpA_sp (s : State) (b : Byte) : (s.cmpA b).sp = s.sp := by simp [State.cmpA]
@[simp] theorem cmpA_pc (s : State) (b : Byte) : (s.cmpA b).pc = s.pc := by simp [State.cmpA]
@[simp] theorem cmpA_ctl (s : State) (b : Byte) : (s.cmpA b).ctl = s.ctl := by simp [State.cmpA]
@[simp] theorem cmpA_mem (s : State) (b : Byte) : (s.cmpA b).mem = s.mem := by simp [State.cmpA]
@[simp] theorem cmpA_platform (s : State) (b : Byte) : (s.cmpA b).platform = s.platform := by simp [State.cmpA]
@[simp] theorem cmpA_env (s : State) (b : Byte) : (s.cmpA b).env = s.env := by simp [State.cmpA]
@[simp] theorem cmpA_tStates (s : State) (b : Byte) : (s.cmpA b).tStates = s.tStates := by simp [State.cmpA]
@[simp] theorem cmpA_reg (s : State) (b : Byte) (r : Reg) : (s.cmpA b).reg r = s.reg r :=
  reg_congr (cmpA_regs _ _) r
@[simp] theorem cmpA_hl (s : State) (b : Byte) : (s.cmpA b).hl = s.hl := hl_congr (cmpA_regs _ _)

@[simp] theorem cmpA_flags (s : State) (b : Byte) : (s.cmpA b).flags = (sub8 s.regs.a b false).flags := rfl

@[simp] theorem addA_eq (s : State) (b : Byte) (c : Bool) : s.addA b c = s.setAluA (add8 s.regs.a b c) := rfl
@[simp] theorem subA_eq (s : State) (b : Byte) (c : Bool) : s.subA b c = s.setAluA (sub8 s.regs.a b c) := rfl
@[simp] theorem andA_eq (s : State) (b : Byte) :
    s.andA b = s.setLogicA (s.regs.a &&& b) (andAc s.platform.variant s.regs.a b) := rfl
@[simp] theorem xorA_eq (s : State) (b : Byte) : s.xorA b = s.setLogicA (s.regs.a ^^^ b) false := rfl
@[simp] theorem orA_eq (s : State) (b : Byte) : s.orA b = s.setLogicA (s.regs.a ||| b) false := rfl

/-! ## Branches (43_branch.md) -/

@[simp] theorem callTo_regs (s : State) (w : Word) : (s.callTo w).regs = s.regs := by simp [State.callTo]
@[simp] theorem callTo_flags (s : State) (w : Word) : (s.callTo w).flags = s.flags := by simp [State.callTo]
@[simp] theorem callTo_ctl (s : State) (w : Word) : (s.callTo w).ctl = s.ctl := by simp [State.callTo]
@[simp] theorem callTo_platform (s : State) (w : Word) : (s.callTo w).platform = s.platform := by simp [State.callTo]
@[simp] theorem callTo_tStates (s : State) (w : Word) : (s.callTo w).tStates = s.tStates := by simp [State.callTo]
@[simp] theorem callTo_reg (s : State) (w : Word) (r : Reg) : (s.callTo w).reg r = s.reg r :=
  reg_congr (callTo_regs _ _) r
@[simp] theorem callTo_hl (s : State) (w : Word) : (s.callTo w).hl = s.hl := hl_congr (callTo_regs _ _)

@[simp] theorem callTo_pc (s : State) (w : Word) : (s.callTo w).pc = w := rfl
@[simp] theorem callTo_sp (s : State) (w : Word) : (s.callTo w).sp = s.sp - 2 := rfl
@[simp] theorem callTo_env (s : State) (w : Word) : (s.callTo w).env = (s.push16 s.pc).env := rfl
theorem callTo_mem (s : State) (w : Word) : (s.callTo w).mem = (s.push16 s.pc).mem := rfl

/-- The two bytes a call stores. -/
theorem callTo_stores (s : State) (w : Word) :
    StoresBytes [(s.sp - 1, highByte s.pc), (s.sp - 2, lowByte s.pc)] s (s.callTo w) := push16_stores s s.pc

theorem callTo_wf {s : State} (h : s.mem.wf) (w : Word) : (s.callTo w).mem.wf := push16_wf h _

@[simp] theorem returnFrom_regs (s : State) : (s.returnFrom).regs = s.regs := by simp [State.returnFrom]
@[simp] theorem returnFrom_flags (s : State) : (s.returnFrom).flags = s.flags := by simp [State.returnFrom]
@[simp] theorem returnFrom_ctl (s : State) : (s.returnFrom).ctl = s.ctl := by simp [State.returnFrom]
@[simp] theorem returnFrom_mem (s : State) : (s.returnFrom).mem = s.mem := by simp [State.returnFrom]
@[simp] theorem returnFrom_platform (s : State) : (s.returnFrom).platform = s.platform := by simp [State.returnFrom]
@[simp] theorem returnFrom_tStates (s : State) : (s.returnFrom).tStates = s.tStates := by simp [State.returnFrom]
@[simp] theorem returnFrom_reg (s : State) (r : Reg) : (s.returnFrom).reg r = s.reg r :=
  reg_congr (returnFrom_regs _) r
@[simp] theorem returnFrom_hl (s : State) : (s.returnFrom).hl = s.hl := hl_congr (returnFrom_regs _)

@[simp] theorem returnFrom_sp (s : State) : s.returnFrom.sp = s.sp + 2 := rfl
@[simp] theorem returnFrom_pc (s : State) : s.returnFrom.pc = s.pop16.1 := rfl
@[simp] theorem returnFrom_env (s : State) : s.returnFrom.env = s.pop16.2.env := rfl

/-- A return pops what the two bytes under SP hold: where a call or an entry stored PC there, in RAM, control is back at it
and SP as it was. -/
theorem returnFrom_of_stores {s t : State} {v : Word} (h1 : kindAt s.platform (s.sp - 1) = .ram)
    (h2 : kindAt s.platform (s.sp - 2) = .ram) (hsp : t.sp = s.sp - 2) (hp : t.platform = s.platform)
    (hst : StoresBytes [(s.sp - 1, highByte v), (s.sp - 2, lowByte v)] s t) :
    t.returnFrom = (t.setSp s.sp).setPc v := by
  have e1 : s.sp - 2 + 1 = s.sp - 1 := by bv_omega
  have e2 : s.sp - 2 + 2 = s.sp := by bv_omega
  have hh := hst.1 (s.sp - 1, highByte v) (by simp)
  have hl := hst.1 (s.sp - 2, lowByte v) (by simp)
  simp only [h1, h2, if_true] at hh hl
  simp only [State.returnFrom]
  rw [pop16_of_ram t (by rw [hsp, hp, h2]) (by rw [hsp, hp, e1, h1])]
  simp only [hsp, e1, e2, hh, hl, wordOf_highByte_lowByte]

/-- Both outcomes of a conditional operation (R181). -/
theorem onCond_cases (s : State) (k : Cond) (f : State → State) :
    (condHolds s.flags k = true ∧ s.onCond k f = f s) ∨ (condHolds s.flags k = false ∧ s.onCond k f = s) := by
  cases h : condHolds s.flags k <;> simp [State.onCond, h]

/-! ## Taking an interrupt (60_exceptions.md R240, R242) -/

@[simp] theorem enterAt_regs (s : State) (src : IntSource) (w : Word) : (s.enterAt src w).regs = s.regs := by
  simp [State.enterAt]
@[simp] theorem enterAt_flags (s : State) (src : IntSource) (w : Word) : (s.enterAt src w).flags = s.flags := by
  simp [State.enterAt]
@[simp] theorem enterAt_platform (s : State) (src : IntSource) (w : Word) : (s.enterAt src w).platform = s.platform := by
  simp [State.enterAt]
@[simp] theorem enterAt_tStates (s : State) (src : IntSource) (w : Word) : (s.enterAt src w).tStates = s.tStates := by
  simp [State.enterAt]
@[simp] theorem enterAt_reg (s : State) (src : IntSource) (w : Word) (r : Reg) : (s.enterAt src w).reg r = s.reg r :=
  reg_congr (enterAt_regs _ _ _) r
@[simp] theorem enterAt_hl (s : State) (src : IntSource) (w : Word) : (s.enterAt src w).hl = s.hl := hl_congr (enterAt_regs _ _ _)

@[simp] theorem enterAt_pc (s : State) (src : IntSource) (w : Word) : (s.enterAt src w).pc = w := rfl
@[simp] theorem enterAt_sp (s : State) (src : IntSource) (w : Word) : (s.enterAt src w).sp = s.sp - 2 := rfl
@[simp] theorem enterAt_ctl (s : State) (src : IntSource) (w : Word) :
    (s.enterAt src w).ctl = { s.ctl with ie := false, eiPend := false, intInhibit := false, halted := false } := by
  simp [State.enterAt]

/-- The two bytes an entry stores: the PC, not advanced. -/
theorem enterAt_stores (s : State) (src : IntSource) (w : Word) :
    StoresBytes [(s.sp - 1, highByte s.pc), (s.sp - 2, lowByte s.pc)] s (s.enterAt src w) :=
  callTo_stores ((s.emit (.accepted src)).setCtl _) w

/-- What an entry shows the environment: the acceptance (60_exceptions.md R233), then the stack writes to a device. -/
theorem enterAt_env (s : State) (src : IntSource) (w : Word) :
    (s.enterAt src w).env =
      { s.env with
        trace :=
          s.env.trace ++ .accepted src ::
            deviceEvents s.platform [(s.sp - 1, highByte s.pc), (s.sp - 2, lowByte s.pc)] } := by
  simp only [State.enterAt, State.callTo, setPc_env, push16_env, memWrite_env, memWrite_platform, setCtl_env, setCtl_sp,
    setCtl_pc, setCtl_platform, emit_env, emit_sp, emit_pc, emit_platform, deviceEvents, List.append_nil, List.append_assoc,
    List.cons_append, List.nil_append]
  rfl

theorem enterAt_wf {s : State} (h : s.mem.wf) (src : IntSource) (w : Word) : (s.enterAt src w).mem.wf :=
  callTo_wf (s := (s.emit (.accepted src)).setCtl _) h w

@[simp] theorem acknowledge_regs (s : State) (src : IntSource) : (s.acknowledge src).regs = s.regs := by
  cases src <;> rfl
@[simp] theorem acknowledge_sp (s : State) (src : IntSource) : (s.acknowledge src).sp = s.sp := by cases src <;> rfl
@[simp] theorem acknowledge_pc (s : State) (src : IntSource) : (s.acknowledge src).pc = s.pc := by cases src <;> rfl
@[simp] theorem acknowledge_flags (s : State) (src : IntSource) : (s.acknowledge src).flags = s.flags := by
  cases src <;> rfl
@[simp] theorem acknowledge_mem (s : State) (src : IntSource) : (s.acknowledge src).mem = s.mem := by
  cases src <;> rfl
@[simp] theorem acknowledge_platform (s : State) (src : IntSource) : (s.acknowledge src).platform = s.platform := by
  cases src <;> rfl
@[simp] theorem acknowledge_env (s : State) (src : IntSource) : (s.acknowledge src).env = s.env := by
  cases src <;> rfl
@[simp] theorem acknowledge_tStates (s : State) (src : IntSource) : (s.acknowledge src).tStates = s.tStates := by
  cases src <;> rfl
@[simp] theorem acknowledge_reg (s : State) (src : IntSource) (r : Reg) : (s.acknowledge src).reg r = s.reg r :=
  reg_congr (acknowledge_regs _ _) r
@[simp] theorem acknowledge_hl (s : State) (src : IntSource) : (s.acknowledge src).hl = s.hl := hl_congr (acknowledge_regs _ _)

/-- What the interrupt state is after an acknowledge (R240). -/
theorem acknowledge_ctl (s : State) (src : IntSource) :
    (s.acknowledge src).ctl =
      { s.ctl with
        ieTrap := if src = .trap then s.ctl.ie else s.ctl.ieTrap
        trapRim := decide (src = .trap) || s.ctl.trapRim
        r75 := s.ctl.r75 && decide (src ≠ .rst75) } := by
  cases src <;> simp [State.acknowledge]

/-- Everything an interrupt entry can do. -/
theorem enterInterrupt_cases (s : State) (q : IntQuery) (src : IntSource) :
    (∃ w, s.enterInterrupt q src = .next ((s.acknowledge src).enterAt src w)) ∨
      s.enterInterrupt q src = .refused (.prohibitedAcknowledge q.intrBytes) := by
  cases src <;> try exact .inl ⟨_, rfl⟩
  simp only [State.enterInterrupt, vectorOf]
  split
  · exact .inl ⟨_, rfl⟩
  · exact .inr rfl

/-- No source is accepted while IntInhibit is 1 (R237). -/
theorem acceptedSource_of_inhibit {s : State} {q : IntQuery} (h : s.ctl.intInhibit = true) : acceptedSource s q = none := by
  simp [acceptedSource, h]

/-- The source accepted is one whose gate is open. -/
theorem gateOpen_of_acceptedSource {s : State} {q : IntQuery} {src : IntSource} (h : acceptedSource s q = some src) :
    s.ctl.intInhibit = false ∧ gateOpen s q src = true := by
  simp only [acceptedSource] at h
  split at h
  · cases h
  · rename_i hi
    exact ⟨by simpa using hi, by simpa using List.find?_some h⟩

/-! ## Reset (70_reset_and_hazards.md R270) -/

@[simp] theorem resetEvent_pc (s : State) : s.resetEvent.pc = s.platform.resetPc := rfl
@[simp] theorem resetEvent_platform (s : State) : s.resetEvent.platform = s.platform := rfl
@[simp] theorem resetEvent_env (s : State) : s.resetEvent.env = s.env := rfl
@[simp] theorem resetEvent_mem (s : State) : s.resetEvent.mem = { epoch := s.mem.epoch + 1, cells := [] } := rfl

theorem resetEvent_wf (s : State) : s.resetEvent.mem.wf := Memory.wf_empty _

/-- What a reset event leaves in the interrupt and halt state, on either part. -/
theorem resetEvent_ctl (s : State) :
    s.resetEvent.ctl.ie = false ∧ s.resetEvent.ctl.eiPend = false ∧ s.resetEvent.ctl.intInhibit = false ∧
      s.resetEvent.ctl.halted = false := by
  cases h : s.platform.variant <;> simp [State.resetEvent, h]

/-! ## `RIM` (44_stack_io_control.md R213) -/

/-- Everything the sampling of `RIM` can do. -/
theorem rimSample_cases (s : State) :
    (∃ q rest, s.env.rim = q :: rest ∧ s.rimSample = (q, { s with env := { s.env with rim := rest } })) ∨
      (s.env.rim = [] ∧
        s.rimSample = ({ sid := Config.sidLevel s.env.draws, rst65 := false, rst55 := false }, s.countDraw)) := by
  cases h : s.env.rim with
  | nil => exact .inr ⟨rfl, by simp [State.rimSample, h]⟩
  | cons q rest => exact .inl ⟨q, rest, rfl, by simp [State.rimSample, h]⟩

/-- Everything the choice of bit 3 of `RIM` can do. -/
theorem rimIeBit_cases (s : State) :
    (s.ctl.trapRim = true ∧ s.rimIeBit = (s.ctl.ieTrap, s)) ∨
      (s.ctl.trapRim = false ∧ s.ctl.eiPend = true ∧ s.rimIeBit = (Config.rimIeBit s.env.draws, s.countDraw)) ∨
      (s.ctl.trapRim = false ∧ s.ctl.eiPend = false ∧ s.rimIeBit = (s.ctl.ie, s)) := by
  cases h : s.ctl.trapRim <;> cases h' : s.ctl.eiPend <;> simp [State.rimIeBit, h, h']

/-- The sampling changes nothing but `env`. -/
theorem rimSample_state (s : State) : s.rimSample.2 = { s with env := s.rimSample.2.env } := by
  rcases rimSample_cases s with ⟨_, _, _, h⟩ | ⟨_, h⟩
  · rw [h]
  · rw [h]; rfl

@[simp] theorem rimSample_regs (s : State) : (s.rimSample.2).regs = s.regs := by rw [rimSample_state]
@[simp] theorem rimSample_sp (s : State) : (s.rimSample.2).sp = s.sp := by rw [rimSample_state]
@[simp] theorem rimSample_pc (s : State) : (s.rimSample.2).pc = s.pc := by rw [rimSample_state]
@[simp] theorem rimSample_flags (s : State) : (s.rimSample.2).flags = s.flags := by rw [rimSample_state]
@[simp] theorem rimSample_ctl (s : State) : (s.rimSample.2).ctl = s.ctl := by rw [rimSample_state]
@[simp] theorem rimSample_mem (s : State) : (s.rimSample.2).mem = s.mem := by rw [rimSample_state]
@[simp] theorem rimSample_platform (s : State) : (s.rimSample.2).platform = s.platform := by rw [rimSample_state]
@[simp] theorem rimSample_tStates (s : State) : (s.rimSample.2).tStates = s.tStates := by rw [rimSample_state]
@[simp] theorem rimSample_reg (s : State) (r : Reg) : (s.rimSample.2).reg r = s.reg r :=
  reg_congr (rimSample_regs _) r
@[simp] theorem rimSample_hl (s : State) : (s.rimSample.2).hl = s.hl := hl_congr (rimSample_regs _)

/-- The choice of bit 3 changes nothing but `env`. -/
theorem rimIeBit_state (s : State) : s.rimIeBit.2 = { s with env := s.rimIeBit.2.env } := by
  rcases rimIeBit_cases s with ⟨_, h⟩ | ⟨_, _, h⟩ | ⟨_, _, h⟩
  · rw [h]
  · rw [h]; rfl
  · rw [h]

@[simp] theorem rimIeBit_regs (s : State) : (s.rimIeBit.2).regs = s.regs := by rw [rimIeBit_state]
@[simp] theorem rimIeBit_sp (s : State) : (s.rimIeBit.2).sp = s.sp := by rw [rimIeBit_state]
@[simp] theorem rimIeBit_pc (s : State) : (s.rimIeBit.2).pc = s.pc := by rw [rimIeBit_state]
@[simp] theorem rimIeBit_flags (s : State) : (s.rimIeBit.2).flags = s.flags := by rw [rimIeBit_state]
@[simp] theorem rimIeBit_ctl (s : State) : (s.rimIeBit.2).ctl = s.ctl := by rw [rimIeBit_state]
@[simp] theorem rimIeBit_mem (s : State) : (s.rimIeBit.2).mem = s.mem := by rw [rimIeBit_state]
@[simp] theorem rimIeBit_platform (s : State) : (s.rimIeBit.2).platform = s.platform := by rw [rimIeBit_state]
@[simp] theorem rimIeBit_tStates (s : State) : (s.rimIeBit.2).tStates = s.tStates := by rw [rimIeBit_state]
@[simp] theorem rimIeBit_reg (s : State) (r : Reg) : (s.rimIeBit.2).reg r = s.reg r :=
  reg_congr (rimIeBit_regs _) r
@[simp] theorem rimIeBit_hl (s : State) : (s.rimIeBit.2).hl = s.hl := hl_congr (rimIeBit_regs _)

/-! ## Fetching (00_scope.md R12 items 3 and 4) -/

/-- Everything a fetch can do: the three lengths. -/
theorem fetch_cases (s : State) :
    (∃ i, layoutOf (s.byteAt s.pc) = .one i ∧ s.fetch = (i, (s.memRead s.pc).2.setPc (s.pc + 1))) ∨
      (∃ k, layoutOf (s.byteAt s.pc) = .two k ∧
        s.fetch = (k ((s.memRead s.pc).2.byteAt (s.pc + 1)), ((s.memRead s.pc).2.memRead (s.pc + 1)).2.setPc (s.pc + 2))) ∨
      (∃ k, layoutOf (s.byteAt s.pc) = .three k ∧
        ((skipsByte3 s (k 0x0000#16) = true ∧
            s.fetch = (k (wordOf 0x00#8 ((s.memRead s.pc).2.byteAt (s.pc + 1))),
              ((s.memRead s.pc).2.memRead (s.pc + 1)).2.setPc (s.pc + 3))) ∨
          (skipsByte3 s (k 0x0000#16) = false ∧
            s.fetch = (k (wordOf (((s.memRead s.pc).2.memRead (s.pc + 1)).2.byteAt (s.pc + 2))
                ((s.memRead s.pc).2.byteAt (s.pc + 1))),
              (((s.memRead s.pc).2.memRead (s.pc + 1)).2.memRead (s.pc + 2)).2.setPc (s.pc + 3))))) := by
  cases h : layoutOf (s.byteAt s.pc) with
  | one i => exact .inl ⟨i, rfl, by simp only [State.fetch]; rw [State.byteAt] at h; rw [h]⟩
  | two k => exact .inr (.inl ⟨k, rfl, by simp only [State.fetch]; rw [State.byteAt] at h; rw [h]; rfl⟩)
  | three k =>
    refine .inr (.inr ⟨k, rfl, ?_⟩)
    rw [State.byteAt] at h
    cases hs : skipsByte3 s (k 0x0000#16)
    · exact .inr ⟨rfl, by simp only [State.fetch]; rw [h]; simp only [hs]; rfl⟩
    · exact .inl ⟨rfl, by simp only [State.fetch]; rw [h]; simp only [hs]; rfl⟩

@[simp] theorem fetch_regs (s : State) : s.fetch.2.regs = s.regs := by
  rcases fetch_cases s with ⟨_, _, h⟩ | ⟨_, _, h⟩ | ⟨_, _, ⟨_, h⟩ | ⟨_, h⟩⟩ <;> simp [h]
@[simp] theorem fetch_sp (s : State) : s.fetch.2.sp = s.sp := by
  rcases fetch_cases s with ⟨_, _, h⟩ | ⟨_, _, h⟩ | ⟨_, _, ⟨_, h⟩ | ⟨_, h⟩⟩ <;> simp [h]
@[simp] theorem fetch_flags (s : State) : s.fetch.2.flags = s.flags := by
  rcases fetch_cases s with ⟨_, _, h⟩ | ⟨_, _, h⟩ | ⟨_, _, ⟨_, h⟩ | ⟨_, h⟩⟩ <;> simp [h]
@[simp] theorem fetch_ctl (s : State) : s.fetch.2.ctl = s.ctl := by
  rcases fetch_cases s with ⟨_, _, h⟩ | ⟨_, _, h⟩ | ⟨_, _, ⟨_, h⟩ | ⟨_, h⟩⟩ <;> simp [h]
@[simp] theorem fetch_mem (s : State) : s.fetch.2.mem = s.mem := by
  rcases fetch_cases s with ⟨_, _, h⟩ | ⟨_, _, h⟩ | ⟨_, _, ⟨_, h⟩ | ⟨_, h⟩⟩ <;> simp [h]
@[simp] theorem fetch_platform (s : State) : s.fetch.2.platform = s.platform := by
  rcases fetch_cases s with ⟨_, _, h⟩ | ⟨_, _, h⟩ | ⟨_, _, ⟨_, h⟩ | ⟨_, h⟩⟩ <;> simp [h]
@[simp] theorem fetch_tStates (s : State) : s.fetch.2.tStates = s.tStates := by
  rcases fetch_cases s with ⟨_, _, h⟩ | ⟨_, _, h⟩ | ⟨_, _, ⟨_, h⟩ | ⟨_, h⟩⟩ <;> simp [h]
@[simp] theorem fetch_reg (s : State) (r : Reg) : s.fetch.2.reg r = s.reg r := reg_congr (fetch_regs s) r

end Sys2Proof.Machine
end

