-- ==== Sys2Proof/Laws/Flags.lean ====
section
/-! SUPPORT. What the flag computations compute, in exact arithmetic (10_state.md R26 to R28; 42_logical.md R151;
44_stack_io_control.md R202, R204). -/

namespace Sys2Proof.Machine

/-! ## `set_ZSP` (R26) -/

@[simp] theorem setZsp_cy (v : Byte) (f : Flags) : (setZsp v f).cy = f.cy := rfl
@[simp] theorem setZsp_ac (v : Byte) (f : Flags) : (setZsp v f).ac = f.ac := rfl

theorem parityEven_iff : ∀ v : Byte,
    parityEven v = true ↔ (List.range 8).countP (fun i => v.getLsbD i) % 2 = 0 := by decide +kernel

theorem getLsbD_seven_iff : ∀ v : Byte, v.getLsbD 7 = true ↔ 128 ≤ v.toNat := by decide +kernel

/-- Z, S and P follow the standard rules, whatever the flags were. -/
theorem setZsp_spec (v : Byte) (f : Flags) : ZspOf v (setZsp v f) :=
  ⟨by simp [setZsp], getLsbD_seven_iff v, parityEven_iff v⟩

/-! ## `add8` and `sub8` (R27, R28) -/

@[simp] theorem aluFlags_cy (r : AluOut) : r.flags.cy = r.cy := rfl
@[simp] theorem aluFlags_ac (r : AluOut) : r.flags.ac = r.ac := rfl
@[simp] theorem flagsKeepCy_cy (r : AluOut) (f : Flags) : (r.flagsKeepCy f).cy = f.cy := rfl
@[simp] theorem flagsKeepCy_ac (r : AluOut) (f : Flags) : (r.flagsKeepCy f).ac = r.ac := rfl

theorem aluFlags_zsp (r : AluOut) : ZspOf r.result r.flags := setZsp_spec _ _

theorem flagsKeepCy_zsp (r : AluOut) (f : Flags) : ZspOf r.result (r.flagsKeepCy f) := setZsp_spec _ _

theorem carryIn_toNat (n : Nat) (h : 0 < n) (c : Bool) : (carryIn n c).toNat = c.toNat := by
  cases c
  · simp [carryIn]
  · have : 1 < 2 ^ n := Nat.one_lt_two_pow (by omega)
    simp [carryIn, Nat.mod_eq_of_lt this]

theorem lowNibble5_toNat (v : Byte) : (lowNibble5 v).toNat = v.toNat % 16 := by
  simp [lowNibble5, BitVec.extractLsb'_toNat]
  omega

theorem getLsbD_eight (x : BitVec 9) : x.getLsbD 8 = decide (256 ≤ x.toNat) := by
  have := x.isLt
  rw [BitVec.getLsbD, Nat.testBit_eq_decide_div_mod_eq]
  simp only [decide_eq_decide]
  omega

theorem getLsbD_four (x : BitVec 5) : x.getLsbD 4 = decide (16 ≤ x.toNat) := by
  have := x.isLt
  rw [BitVec.getLsbD, Nat.testBit_eq_decide_div_mod_eq]
  simp only [decide_eq_decide]
  omega

theorem toNat_le_one (c : Bool) : c.toNat ≤ 1 := by cases c <;> simp

theorem add8_result (a b : Byte) (c : Bool) : (add8 a b c).result.toNat = (a.toNat + b.toNat + c.toNat) % 256 := by
  have ha := a.isLt
  have hb := b.isLt
  have hc := toNat_le_one c
  simp only [add8, BitVec.toNat_setWidth, BitVec.toNat_add, carryIn_toNat 9 (by omega)]
  omega

theorem add8_cy (a b : Byte) (c : Bool) : (add8 a b c).cy = decide (256 ≤ a.toNat + b.toNat + c.toNat) := by
  have ha := a.isLt
  have hb := b.isLt
  have hc := toNat_le_one c
  simp only [add8, getLsbD_eight, BitVec.toNat_setWidth, BitVec.toNat_add, carryIn_toNat 9 (by omega), decide_eq_decide]
  omega

theorem add8_ac (a b : Byte) (c : Bool) :
    (add8 a b c).ac = decide (16 ≤ a.toNat % 16 + b.toNat % 16 + c.toNat) := by
  have hc := toNat_le_one c
  simp only [add8, getLsbD_four, BitVec.toNat_add, lowNibble5_toNat, carryIn_toNat 5 (by omega), decide_eq_decide]
  omega

/-- `add8` is exact addition. -/
theorem add8_spec (a b : Byte) (c : Bool) : SumOf a b c (add8 a b c).result (add8 a b c).flags :=
  ⟨add8_result a b c, by simp [add8_cy], by simp [add8_ac], aluFlags_zsp _⟩

theorem not_toNat (b : Byte) : (~~~b).toNat = 255 - b.toNat := by
  rw [BitVec.toNat_not]

theorem bool_not_toNat (c : Bool) : (!c).toNat = 1 - c.toNat := by cases c <;> rfl

theorem sub8_result (a b : Byte) (c : Bool) :
    (sub8 a b c).result.toNat = (a.toNat + 256 - b.toNat - c.toNat) % 256 := by
  have ha := a.isLt
  have hb := b.isLt
  have hc := toNat_le_one c
  simp only [sub8, BitVec.toNat_setWidth, BitVec.toNat_add, carryIn_toNat 9 (by omega), not_toNat, bool_not_toNat]
  omega

theorem sub8_cy (a b : Byte) (c : Bool) : (sub8 a b c).cy = decide (a.toNat < b.toNat + c.toNat) := by
  have ha := a.isLt
  have hb := b.isLt
  have hc := toNat_le_one c
  simp only [sub8, getLsbD_eight, BitVec.toNat_setWidth, BitVec.toNat_add, carryIn_toNat 9 (by omega), not_toNat,
    bool_not_toNat]
  rw [← decide_not, decide_eq_decide]
  omega

/-- AC after a subtraction, not inverted (D3, log 17): 1 where the low digit needs no borrow. -/
theorem sub8_ac (a b : Byte) (c : Bool) :
    (sub8 a b c).ac = decide (b.toNat % 16 + c.toNat ≤ a.toNat % 16) := by
  have hb := b.isLt
  have hc := toNat_le_one c
  simp only [sub8, getLsbD_four, BitVec.toNat_add, lowNibble5_toNat, carryIn_toNat 5 (by omega), not_toNat,
    bool_not_toNat, decide_eq_decide]
  omega

/-- `sub8` is exact subtraction. -/
theorem sub8_spec (a b : Byte) (c : Bool) : DifferenceOf a b c (sub8 a b c).result (sub8 a b c).flags := by
  refine ⟨?_, by simp [sub8_cy], aluFlags_zsp _⟩
  have hb := b.isLt
  have hc := toNat_le_one c
  rw [sub8_result]
  omega

/-! ## The logical flags (42_logical.md R151) -/

@[simp] theorem logicFlags_cy (v : Byte) (c : Bool) : (logicFlags v c).cy = false := rfl
@[simp] theorem logicFlags_ac (v : Byte) (c : Bool) : (logicFlags v c).ac = c := rfl

theorem logicFlags_zsp (v : Byte) (c : Bool) : ZspOf v (logicFlags v c) := setZsp_spec _ _

/-! ## The 16-bit addition of `DAD` (41_arithmetic.md R139) -/

theorem add16_result (x y : Word) : (add16 x y).1.toNat = (x.toNat + y.toNat) % 65536 := by
  have hx := x.isLt
  have hy := y.isLt
  simp only [add16, BitVec.toNat_setWidth, BitVec.toNat_add]
  omega

theorem add16_cy (x y : Word) : (add16 x y).2 = decide (65536 ≤ x.toNat + y.toNat) := by
  have hx := x.isLt
  have hy := y.isLt
  simp only [add16]
  rw [BitVec.getLsbD, Nat.testBit_eq_decide_div_mod_eq]
  simp only [BitVec.toNat_setWidth, BitVec.toNat_add, decide_eq_decide]
  omega

/-! ## The flag byte (44_stack_io_control.md R202, R204) -/

/-- Taking the flags from a stored flag byte gives the flags it was made from, whatever the three free bits are. -/
@[simp] theorem flagsOfByte_flagByte (f : Flags) (x : BitVec 3) : flagsOfByte (flagByte f x) = f := by
  obtain ⟨z, s, p, cy, ac⟩ := f
  revert z s p cy ac x
  decide +kernel

end Sys2Proof.Machine
end

