-- ==== Sys2Proof/Laws/PerInstr.lean ====
section
/-! SUPPORT. Families of statements made per instruction, as syntax: one lemma per constructor of `Instr`. -/

/-- The encoding of an instruction is as long as its first byte alone says (30_encoding.md R70, R78). -/
def Sys2Proof.Laws.EncodeLength.Statement (i : Sys2Proof.Instr) : Prop :=
  (Sys2Proof.encode i).length = Sys2Proof.opLength ((Sys2Proof.encode i).headD 0)

namespace Sys2Proof.Laws.EncodeLength

/-- The statement from the first byte and the number of bytes after it. -/
theorem of_first {i : Instr} {op : Byte} {rest : List Byte} (n : Nat) (h : encode i = op :: rest) (hn : rest.length = n)
    (hop : opLength op = n + 1) : Statement i := by
  simp [Statement, h, hn, hop]

theorem movRR (r1 : Reg) (r2 : Reg) : Statement (.movRR r1 r2) := by
  cases r1 <;> cases r2 <;> exact of_first 0 rfl rfl (by decide)

theorem movRM (r : Reg) : Statement (.movRM r) := by
  cases r <;> exact of_first 0 rfl rfl (by decide)

theorem movMR (r : Reg) : Statement (.movMR r) := by
  cases r <;> exact of_first 0 rfl rfl (by decide)

theorem mviR (r : Reg) (data : Byte) : Statement (.mviR r data) := by
  cases r <;> exact of_first 1 rfl rfl (by decide)

theorem mviM (data : Byte) : Statement (.mviM data) := of_first 1 rfl rfl (by decide)

theorem lxi (rp : Pair) (data : Word) : Statement (.lxi rp data) := by
  cases rp <;> exact of_first 2 rfl rfl (by decide)

theorem lda (addr : Word) : Statement (.lda addr) := of_first 2 rfl rfl (by decide)

theorem sta (addr : Word) : Statement (.sta addr) := of_first 2 rfl rfl (by decide)

theorem lhld (addr : Word) : Statement (.lhld addr) := of_first 2 rfl rfl (by decide)

theorem shld (addr : Word) : Statement (.shld addr) := of_first 2 rfl rfl (by decide)

theorem ldax (rp : IndexPair) : Statement (.ldax rp) := by
  cases rp <;> exact of_first 0 rfl rfl (by decide)

theorem stax (rp : IndexPair) : Statement (.stax rp) := by
  cases rp <;> exact of_first 0 rfl rfl (by decide)

theorem xchg : Statement .xchg := of_first 0 rfl rfl (by decide)

theorem addR (r : Reg) : Statement (.addR r) := by
  cases r <;> exact of_first 0 rfl rfl (by decide)

theorem addM : Statement .addM := of_first 0 rfl rfl (by decide)

theorem adi (data : Byte) : Statement (.adi data) := of_first 1 rfl rfl (by decide)

theorem adcR (r : Reg) : Statement (.adcR r) := by
  cases r <;> exact of_first 0 rfl rfl (by decide)

theorem adcM : Statement .adcM := of_first 0 rfl rfl (by decide)

theorem aci (data : Byte) : Statement (.aci data) := of_first 1 rfl rfl (by decide)

theorem subR (r : Reg) : Statement (.subR r) := by
  cases r <;> exact of_first 0 rfl rfl (by decide)

theorem subM : Statement .subM := of_first 0 rfl rfl (by decide)

theorem sui (data : Byte) : Statement (.sui data) := of_first 1 rfl rfl (by decide)

theorem sbbR (r : Reg) : Statement (.sbbR r) := by
  cases r <;> exact of_first 0 rfl rfl (by decide)

theorem sbbM : Statement .sbbM := of_first 0 rfl rfl (by decide)

theorem sbi (data : Byte) : Statement (.sbi data) := of_first 1 rfl rfl (by decide)

theorem inrR (r : Reg) : Statement (.inrR r) := by
  cases r <;> exact of_first 0 rfl rfl (by decide)

theorem inrM : Statement .inrM := of_first 0 rfl rfl (by decide)

theorem dcrR (r : Reg) : Statement (.dcrR r) := by
  cases r <;> exact of_first 0 rfl rfl (by decide)

theorem dcrM : Statement .dcrM := of_first 0 rfl rfl (by decide)

theorem inx (rp : Pair) : Statement (.inx rp) := by
  cases rp <;> exact of_first 0 rfl rfl (by decide)

theorem dcx (rp : Pair) : Statement (.dcx rp) := by
  cases rp <;> exact of_first 0 rfl rfl (by decide)

theorem dad (rp : Pair) : Statement (.dad rp) := by
  cases rp <;> exact of_first 0 rfl rfl (by decide)

theorem daa : Statement .daa := of_first 0 rfl rfl (by decide)

theorem anaR (r : Reg) : Statement (.anaR r) := by
  cases r <;> exact of_first 0 rfl rfl (by decide)

theorem anaM : Statement .anaM := of_first 0 rfl rfl (by decide)

theorem ani (data : Byte) : Statement (.ani data) := of_first 1 rfl rfl (by decide)

theorem xraR (r : Reg) : Statement (.xraR r) := by
  cases r <;> exact of_first 0 rfl rfl (by decide)

theorem xraM : Statement .xraM := of_first 0 rfl rfl (by decide)

theorem xri (data : Byte) : Statement (.xri data) := of_first 1 rfl rfl (by decide)

theorem oraR (r : Reg) : Statement (.oraR r) := by
  cases r <;> exact of_first 0 rfl rfl (by decide)

theorem oraM : Statement .oraM := of_first 0 rfl rfl (by decide)

theorem ori (data : Byte) : Statement (.ori data) := of_first 1 rfl rfl (by decide)

theorem cmpR (r : Reg) : Statement (.cmpR r) := by
  cases r <;> exact of_first 0 rfl rfl (by decide)

theorem cmpM : Statement .cmpM := of_first 0 rfl rfl (by decide)

theorem cpi (data : Byte) : Statement (.cpi data) := of_first 1 rfl rfl (by decide)

theorem rlc : Statement .rlc := of_first 0 rfl rfl (by decide)

theorem rrc : Statement .rrc := of_first 0 rfl rfl (by decide)

theorem ral : Statement .ral := of_first 0 rfl rfl (by decide)

theorem rar : Statement .rar := of_first 0 rfl rfl (by decide)

theorem cma : Statement .cma := of_first 0 rfl rfl (by decide)

theorem cmc : Statement .cmc := of_first 0 rfl rfl (by decide)

theorem stc : Statement .stc := of_first 0 rfl rfl (by decide)

theorem jmp (addr : Word) : Statement (.jmp addr) := of_first 2 rfl rfl (by decide)

theorem jnz (addr : Word) : Statement (.jnz addr) := of_first 2 rfl rfl (by decide)

theorem jz (addr : Word) : Statement (.jz addr) := of_first 2 rfl rfl (by decide)

theorem jnc (addr : Word) : Statement (.jnc addr) := of_first 2 rfl rfl (by decide)

theorem jc (addr : Word) : Statement (.jc addr) := of_first 2 rfl rfl (by decide)

theorem jpo (addr : Word) : Statement (.jpo addr) := of_first 2 rfl rfl (by decide)

theorem jpe (addr : Word) : Statement (.jpe addr) := of_first 2 rfl rfl (by decide)

theorem jp (addr : Word) : Statement (.jp addr) := of_first 2 rfl rfl (by decide)

theorem jm (addr : Word) : Statement (.jm addr) := of_first 2 rfl rfl (by decide)

theorem call (addr : Word) : Statement (.call addr) := of_first 2 rfl rfl (by decide)

theorem cnz (addr : Word) : Statement (.cnz addr) := of_first 2 rfl rfl (by decide)

theorem cz (addr : Word) : Statement (.cz addr) := of_first 2 rfl rfl (by decide)

theorem cnc (addr : Word) : Statement (.cnc addr) := of_first 2 rfl rfl (by decide)

theorem cc (addr : Word) : Statement (.cc addr) := of_first 2 rfl rfl (by decide)

theorem cpo (addr : Word) : Statement (.cpo addr) := of_first 2 rfl rfl (by decide)

theorem cpe (addr : Word) : Statement (.cpe addr) := of_first 2 rfl rfl (by decide)

theorem cp (addr : Word) : Statement (.cp addr) := of_first 2 rfl rfl (by decide)

theorem cm (addr : Word) : Statement (.cm addr) := of_first 2 rfl rfl (by decide)

theorem ret : Statement .ret := of_first 0 rfl rfl (by decide)

theorem rnz : Statement .rnz := of_first 0 rfl rfl (by decide)

theorem rz : Statement .rz := of_first 0 rfl rfl (by decide)

theorem rnc : Statement .rnc := of_first 0 rfl rfl (by decide)

theorem rc : Statement .rc := of_first 0 rfl rfl (by decide)

theorem rpo : Statement .rpo := of_first 0 rfl rfl (by decide)

theorem rpe : Statement .rpe := of_first 0 rfl rfl (by decide)

theorem rp : Statement .rp := of_first 0 rfl rfl (by decide)

theorem rm : Statement .rm := of_first 0 rfl rfl (by decide)

theorem rst (n : BitVec 3) : Statement (.rst n) := 
  of_first 0 rfl rfl (by revert n; decide)

theorem pchl : Statement .pchl := of_first 0 rfl rfl (by decide)

theorem push (rp : StackPair) : Statement (.push rp) := by
  cases rp <;> exact of_first 0 rfl rfl (by decide)

theorem pushPsw : Statement .pushPsw := of_first 0 rfl rfl (by decide)

theorem pop (rp : StackPair) : Statement (.pop rp) := by
  cases rp <;> exact of_first 0 rfl rfl (by decide)

theorem popPsw : Statement .popPsw := of_first 0 rfl rfl (by decide)

theorem xthl : Statement .xthl := of_first 0 rfl rfl (by decide)

theorem sphl : Statement .sphl := of_first 0 rfl rfl (by decide)

theorem inPort (port : Byte) : Statement (.inPort port) := of_first 1 rfl rfl (by decide)

theorem outPort (port : Byte) : Statement (.outPort port) := of_first 1 rfl rfl (by decide)

theorem ei : Statement .ei := of_first 0 rfl rfl (by decide)

theorem di : Statement .di := of_first 0 rfl rfl (by decide)

theorem hlt : Statement .hlt := of_first 0 rfl rfl (by decide)

theorem nop : Statement .nop := of_first 0 rfl rfl (by decide)

theorem rim : Statement .rim := of_first 0 rfl rfl (by decide)

theorem sim : Statement .sim := of_first 0 rfl rfl (by decide)

theorem undef08 : Statement .undef08 := of_first 0 rfl rfl (by decide)

theorem undef10 : Statement .undef10 := of_first 0 rfl rfl (by decide)

theorem undef18 : Statement .undef18 := of_first 0 rfl rfl (by decide)

theorem undef28 : Statement .undef28 := of_first 0 rfl rfl (by decide)

theorem undef38 : Statement .undef38 := of_first 0 rfl rfl (by decide)

theorem undefCB : Statement .undefCB := of_first 0 rfl rfl (by decide)

theorem undefD9 : Statement .undefD9 := of_first 0 rfl rfl (by decide)

theorem undefDD : Statement .undefDD := of_first 0 rfl rfl (by decide)

theorem undefED : Statement .undefED := of_first 0 rfl rfl (by decide)

theorem undefFD : Statement .undefFD := of_first 0 rfl rfl (by decide)

end Sys2Proof.Laws.EncodeLength
end

