-- ==== Sys2Proof/Laws/Step.lean ====
section
/-! SUPPORT. What a step can do, said once (00_scope.md R12; 60_exceptions.md R236): every later proof about `step` starts
from `step_cases`. -/

namespace Sys2Proof.Machine

/-! ## The boundary's query -/

theorem afterBoundary_of_query {s : State} {q : IntQuery} (h : s.boundaryInput = .query q) :
    s.afterBoundary = s.useBoundaryInput.latchEdge q := by
  simp [State.afterBoundary, h]

@[simp] theorem afterBoundary_regs (s : State) : s.afterBoundary.regs = s.regs := by
  unfold State.afterBoundary
  split <;> rfl

@[simp] theorem afterBoundary_sp (s : State) : s.afterBoundary.sp = s.sp := by
  unfold State.afterBoundary
  split <;> rfl

@[simp] theorem afterBoundary_pc (s : State) : s.afterBoundary.pc = s.pc := by
  unfold State.afterBoundary
  split <;> rfl

@[simp] theorem afterBoundary_flags (s : State) : s.afterBoundary.flags = s.flags := by
  unfold State.afterBoundary
  split <;> rfl

@[simp] theorem afterBoundary_mem (s : State) : s.afterBoundary.mem = s.mem := by
  unfold State.afterBoundary
  split <;> rfl

@[simp] theorem afterBoundary_platform (s : State) : s.afterBoundary.platform = s.platform := by
  unfold State.afterBoundary
  split <;> rfl

/-- The boundary uses up one answer of the environment. -/
@[simp] theorem afterBoundary_env (s : State) :
    s.afterBoundary.env = { s.env with boundary := s.env.boundary.tail } := by
  unfold State.afterBoundary
  split <;> rfl

@[simp] theorem afterBoundary_tStates (s : State) : s.afterBoundary.tStates = s.tStates := by
  unfold State.afterBoundary
  split <;> rfl

@[simp] theorem afterBoundary_reg (s : State) (r : Reg) : s.afterBoundary.reg r = s.reg r :=
  reg_congr (afterBoundary_regs s) r

@[simp] theorem afterBoundary_eiPend (s : State) : s.afterBoundary.ctl.eiPend = s.ctl.eiPend := by
  unfold State.afterBoundary
  split <;> rfl

/-- The query changes the interrupt state by the RST 7.5 latch alone (R234). -/
theorem afterBoundary_ctl {s : State} {q : IntQuery} (h : s.boundaryInput = .query q) :
    s.afterBoundary.ctl = { s.ctl with r75 := s.ctl.r75 || q.rst75Edge } := by
  rw [afterBoundary_of_query h]
  rfl

/-- The step of a state whose boundary passes and that is not halted runs the instruction at PC. -/
theorem step_of_fetches {s : State} (h : Fetches s) : step s = s.afterBoundary.runNext := by
  obtain ⟨⟨q, hq, ha⟩, hh⟩ := h
  rw [afterBoundary_of_query hq] at ha ⊢
  simp only [step, hq, ha]
  simp [hh]

/-- The step of a state whose boundary accepts a source is that source's entry. -/
theorem step_of_accepts {s : State} {q : IntQuery} {src : IntSource} (h : Accepts s q src) :
    step s = s.afterBoundary.enterInterrupt q src := by
  obtain ⟨hq, ha⟩ := h
  rw [afterBoundary_of_query hq] at ha ⊢
  simp only [step, hq, ha]

/-- Everything a step can do where it answers a next state: the reset event; an interrupt entry; nothing but the RST 7.5
latch, while halted; or the instruction at PC. -/
theorem step_cases {s t : State} (h : step s = .next t) :
    (s.boundaryInput = .reset ∧ t = s.useBoundaryInput.resetEvent) ∨
      ∃ q, s.boundaryInput = .query q ∧
        ((∃ src, acceptedSource s.afterBoundary q = some src ∧
            ∃ w, t = (s.afterBoundary.acknowledge src).enterAt src w) ∨
          (acceptedSource s.afterBoundary q = none ∧ s.ctl.halted = true ∧ t = s.afterBoundary) ∨
          (acceptedSource s.afterBoundary q = none ∧ s.ctl.halted = false ∧ s.afterBoundary.runNext = .next t)) := by
  cases hb : s.boundaryInput with
  | reset =>
    simp only [step, hb, Host.Outcome.next.injEq] at h
    exact .inl ⟨rfl, h.symm⟩
  | query q =>
    refine .inr ⟨q, rfl, ?_⟩
    rw [afterBoundary_of_query hb]
    simp only [step, hb] at h
    cases ha : acceptedSource (s.useBoundaryInput.latchEdge q) q with
    | some src =>
      rw [ha] at h
      refine .inl ⟨src, rfl, ?_⟩
      rcases enterInterrupt_cases (s.useBoundaryInput.latchEdge q) q src with ⟨w, e⟩ | e
      · simp only [e, Host.Outcome.next.injEq] at h
        exact ⟨w, h.symm⟩
      · simp only [e, reduceCtorEq] at h
    | none =>
      rw [ha] at h
      cases hh : s.ctl.halted
      · exact .inr (.inr ⟨rfl, rfl, by simpa [hh] using h⟩)
      · exact .inr (.inl ⟨rfl, rfl, by simpa [hh] using h.symm⟩)

/-- Everything running the instruction at PC can do where it answers a next state: `exec`, then the bookkeeping. -/
theorem runNext_cases {s t : State} (h : s.runNext = .next t) :
    ∃ u, exec s.fetch.1 s.fetch.2 = .next u ∧
      t = (u.enableBookkeeping s.fetch.1 s.ctl.eiPend).countTStates s.fetch.1 s := by
  simp only [State.runNext] at h
  split at h
  · rename_i u hu
    exact ⟨u, hu, by simpa using h.symm⟩
  · cases h
  · cases h

end Sys2Proof.Machine
end

