-- ==== Sys2Proof/Laws/Timing.lean ====
section
/-! SUPPORT. The two columns of Table 5-1 agree: the machine cycles of an instruction make up its T states (R283, R284). -/

namespace Sys2Proof.Machine

/-- The clock periods of the machine cycles add up to the T states, on both parts, taken or not, for every instruction but
`XTHL` on the 8080A (log 26). -/
theorem cyclePeriods_eq {v : Variant} {taken : Bool} {i : Instr} {n : Nat} (h : tStatesOf v taken i = some n)
    (hx : ¬(i = .xthl ∧ v = .v8080A)) : cyclePeriods v taken i = n := by
  cases i <;> cases v <;> cases taken <;>
    first | exact Option.some.inj h | exact absurd ⟨rfl, rfl⟩ hx | nomatch (show none = some n from h)

/-- `XTHL` on the 8080A: 18 T states in the one column, five cycles of 16 clock periods in the other. -/
theorem cyclePeriods_xthl_8080 (taken : Bool) :
    cyclePeriods .v8080A taken .xthl = 16 ∧ tStatesOf .v8080A taken .xthl = some 18 := ⟨rfl, rfl⟩

end Sys2Proof.Machine
end

