-- ==== Sys2Proof/Tests/Slice0.lean ====
section
/-! SUPPORT. The author's own tests: the WellFormed smoke, a decoding for every constructor (words written out from the map
of 30_encoding.md R79), and steps whose expected results are the vectors of 95_test_vectors.md or the example of the
instruction's own rule; and, for every obligation with hypotheses, a state that meets them. -/

namespace Sys2Proof.Tests

open Sys2Proof.Machine

set_option Elab.async false

/-! ## WellFormed: an ill-formed term for each check -/

theorem test_wf_refuses_rim_on_8080 : Instr.rim.wellFormed .v8080A = false := by decide

theorem test_wf_refuses_sim_on_8080 : Instr.sim.wellFormed .v8080A = false := by decide

theorem test_wf_refuses_undefined : ([.undef08, .undef10, .undef18, .undef28, .undef38, .undefCB, .undefD9, .undefDD,
    .undefED, .undefFD] : List Instr).all (fun i => !i.wellFormed .v8085A && !i.wellFormed .v8080A) = true := by decide

theorem test_wf_accepts_rim_on_8085 : Instr.rim.wellFormed .v8085A = true ∧ (Instr.mviR .b 0x12#8).wellFormed .v8080A = true := by
  decide

/-! ## Decoding: one word for every constructor, from the map of R79 -/

/-- Every listed word decodes to its instruction, whole. -/
def decodesTo (ws : List (List Byte × Instr)) : Bool :=
  ws.all (fun p => decide ((decode p.1).toOption = some (p.2, [])))

theorem test_decode_data_transfer : decodesTo [
    ([0x41], .movRR .b .c), ([0x65], .movRR .h .l), ([0x7E], .movRM .a), ([0x74], .movMR .h),
    ([0x0E, 0xFF], .mviR .c 0xFF#8), ([0x36, 0x55], .mviM 0x55#8), ([0x21, 0x34, 0x12], .lxi .hl 0x1234#16),
    ([0x31, 0xFF, 0x3F], .lxi .sp 0x3FFF#16), ([0x3A, 0x00, 0x40], .lda 0x4000#16),
    ([0x32, 0xB3, 0x05], .sta 0x05B3#16), ([0x2A, 0x5B, 0x02], .lhld 0x025B#16),
    ([0x22, 0x0A, 0x01], .shld 0x010A#16), ([0x0A], .ldax .bc), ([0x1A], .ldax .de), ([0x02], .stax .bc),
    ([0x12], .stax .de), ([0xEB], .xchg)] = true := by
  decide +kernel

theorem test_decode_arithmetic : decodesTo [
    ([0x82], .addR .d), ([0x86], .addM), ([0xC6, 0x42], .adi 0x42#8), ([0x89], .adcR .c), ([0x8E], .adcM),
    ([0xCE, 0xBE], .aci 0xBE#8), ([0x90], .subR .b), ([0x96], .subM), ([0xD6, 0x01], .sui 0x01#8), ([0x9D], .sbbR .l),
    ([0x9E], .sbbM), ([0xDE, 0xFF], .sbi 0xFF#8), ([0x0C], .inrR .c), ([0x34], .inrM), ([0x3D], .dcrR .a),
    ([0x35], .dcrM), ([0x13], .inx .de), ([0x3B], .dcx .sp), ([0x29], .dad .hl), ([0x27], .daa)] = true := by
  decide +kernel

theorem test_decode_logical : decodesTo [
    ([0xA0], .anaR .b), ([0xA6], .anaM), ([0xE6, 0x0F], .ani 0x0F#8), ([0xAF], .xraR .a), ([0xAE], .xraM),
    ([0xEE, 0x81], .xri 0x81#8), ([0xB1], .oraR .c), ([0xB6], .oraM), ([0xF6, 0x0F], .ori 0x0F#8), ([0xBB], .cmpR .e),
    ([0xBE], .cmpM), ([0xFE, 0x40], .cpi 0x40#8), ([0x07], .rlc), ([0x0F], .rrc), ([0x17], .ral), ([0x1F], .rar),
    ([0x2F], .cma), ([0x3F], .cmc), ([0x37], .stc)] = true := by
  decide +kernel

theorem test_decode_branch : decodesTo [
    ([0xC3, 0x34, 0x12], .jmp 0x1234#16), ([0xC2, 0x34, 0x12], .jnz 0x1234#16), ([0xCA, 0x34, 0x12], .jz 0x1234#16),
    ([0xD2, 0x34, 0x12], .jnc 0x1234#16), ([0xDA, 0x34, 0x12], .jc 0x1234#16), ([0xE2, 0x34, 0x12], .jpo 0x1234#16),
    ([0xEA, 0x34, 0x12], .jpe 0x1234#16), ([0xF2, 0x34, 0x12], .jp 0x1234#16), ([0xFA, 0x34, 0x12], .jm 0x1234#16),
    ([0xCD, 0x00, 0x20], .call 0x2000#16), ([0xC4, 0x34, 0x12], .cnz 0x1234#16), ([0xCC, 0x34, 0x12], .cz 0x1234#16),
    ([0xD4, 0x34, 0x12], .cnc 0x1234#16), ([0xDC, 0x34, 0x12], .cc 0x1234#16), ([0xE4, 0x34, 0x12], .cpo 0x1234#16),
    ([0xEC, 0x34, 0x12], .cpe 0x1234#16), ([0xF4, 0x34, 0x12], .cp 0x1234#16), ([0xFC, 0x34, 0x12], .cm 0x1234#16),
    ([0xC9], .ret), ([0xC0], .rnz), ([0xC8], .rz), ([0xD0], .rnc), ([0xD8], .rc), ([0xE0], .rpo), ([0xE8], .rpe),
    ([0xF0], .rp), ([0xF8], .rm), ([0xCF], .rst 1#3), ([0xFF], .rst 7#3), ([0xE9], .pchl)] = true := by
  decide +kernel

theorem test_decode_stack_io_control : decodesTo [
    ([0xD5], .push .de), ([0xF5], .pushPsw), ([0xE1], .pop .hl), ([0xF1], .popPsw), ([0xE3], .xthl), ([0xF9], .sphl),
    ([0xDB, 0x10], .inPort 0x10#8), ([0xD3, 0x01], .outPort 0x01#8), ([0xFB], .ei), ([0xF3], .di), ([0x76], .hlt),
    ([0x00], .nop), ([0x20], .rim), ([0x30], .sim)] = true := by
  decide +kernel

theorem test_decode_undefined : decodesTo [
    ([0x08], .undef08), ([0x10], .undef10), ([0x18], .undef18), ([0x28], .undef28), ([0x38], .undef38),
    ([0xCB], .undefCB), ([0xD9], .undefD9), ([0xDD], .undefDD), ([0xED], .undefED), ([0xFD], .undefFD)] = true := by
  decide +kernel

theorem test_decode_truncated : decode [0xC3#8, 0x00#8] = .error (.truncated 0xC3#8) ∧ decode [] = .error .noBytes := by
  exact ⟨rfl, rfl⟩

/-! ## One step on a small state -/

/-- The state of the vectors of 95_test_vectors.md: the code at 0100H, the named registers, flags (Z S P CY AC), SP and
memory bytes; everything else as at reset. -/
def mk (code : List Byte) (rs : List (Reg × Byte)) (f : List Nat) (sp : Word) (ms : List (Nat × Byte)) : State :=
  let s := rs.foldl (fun s p => s.setReg p.1 p.2) State.reset
  let m := (code.zipIdx 0x0100).foldl (fun m p => m.write p.2 p.1) s.mem
  { s with
    pc := 0x0100#16, sp := sp
    flags := { z := f.getD 0 0 == 1, s := f.getD 1 0 == 1, p := f.getD 2 0 == 1, cy := f.getD 3 0 == 1, ac := f.getD 4 0 == 1 }
    mem := ms.foldl (fun m p => m.write p.1 p.2) m }

/-- What a step leaves, seen through `look`; none where the step answers no next state. -/
def after {α : Type} (s : State) (look : State → α) : Option α :=
  match step s with
  | .next t => some (look t)
  | .fault _ => none
  | .refused _ => none

/-- The flags in the order of the vectors: Z S P CY AC. -/
def zspca (t : State) : List Nat := [t.flags.z.toNat, t.flags.s.toNat, t.flags.p.toNat, t.flags.cy.toNat, t.flags.ac.toNat]

/-- A and the flags. -/
def aFlags (t : State) : Byte × List Nat := (t.regs.a, zspca t)

/-- The bytes of RAM at some addresses. -/
def bytesAt (as : List Nat) (t : State) : List Byte := as.map t.mem.read

theorem test_mov_b_c_keeps_flags : after (mk [0x41] [(.b, 0x11), (.c, 0x22)] [1, 0, 0, 1, 0] 0x0000 [])
    (fun t => (t.regs.b, t.regs.c, zspca t, t.pc)) = some (0x22, 0x22, [1, 0, 0, 1, 0], 0x0101) := by decide +kernel

theorem test_mov_l_m_old_address : after (mk [0x6E] [(.h, 0x20), (.l, 0x50)] [] 0x0000 [(0x2050, 0x07)])
    (fun t => (t.regs.l, t.regs.h)) = some (0x07, 0x20) := by decide +kernel

theorem test_mov_m_h : after (mk [0x74] [(.h, 0x20), (.l, 0x50)] [] 0x0000 [])
    (bytesAt [0x2050]) = some [0x20] := by decide +kernel

theorem test_mvi_h : after (mk [0x26, 0x3C] [] [] 0x0000 [])
    (fun t => (t.regs.h, t.pc)) = some (0x3C, 0x0102) := by decide +kernel

theorem test_mvi_m : after (mk [0x36, 0xFF] [(.h, 0x3C), (.l, 0xF4)] [] 0x0000 [])
    (fun t => (bytesAt [0x3CF4] t, t.pc)) = some ([0xFF], 0x0102) := by decide +kernel

theorem test_lxi_b : after (mk [0x01, 0x34, 0x12] [] [] 0x0000 [])
    (fun t => (t.regs.b, t.regs.c, t.pc)) = some (0x12, 0x34, 0x0103) := by decide +kernel

theorem test_lxi_sp : after (mk [0x31, 0xFF, 0x3F] [] [] 0x0000 [])
    (fun t => t.sp) = some 0x3FFF := by decide +kernel

theorem test_lda : after (mk [0x3A, 0x00, 0x03] [] [] 0x0000 [(0x0300, 0x8E)])
    (fun t => t.regs.a) = some 0x8E := by decide +kernel

theorem test_sta : after (mk [0x32, 0xB3, 0x05] [(.a, 0x77)] [] 0x0000 [])
    (bytesAt [0x05B3]) = some [0x77] := by decide +kernel

theorem test_lhld_wraps : after (mk [0x2A, 0xFF, 0xFF] [] [] 0x0000 [(0xFFFF, 0xAA), (0x0000, 0xBB)])
    (fun t => (t.regs.l, t.regs.h)) = some (0xAA, 0xBB) := by decide +kernel

theorem test_shld_wraps : after (mk [0x22, 0xFF, 0xFF] [(.h, 0xAE), (.l, 0x29)] [] 0x0000 [])
    (bytesAt [0xFFFF, 0x0000]) = some [0x29, 0xAE] := by decide +kernel

theorem test_ldax_d : after (mk [0x1A] [(.d, 0x20), (.e, 0x01)] [] 0x0000 [(0x2001, 0xE1)])
    (fun t => t.regs.a) = some 0xE1 := by decide +kernel

theorem test_stax_b : after (mk [0x02] [(.a, 0x3F), (.b, 0x20), (.c, 0x02)] [] 0x0000 [])
    (bytesAt [0x2002]) = some [0x3F] := by decide +kernel

theorem test_xchg : after (mk [0xEB] [(.d, 0x33), (.e, 0x55), (.h, 0x00), (.l, 0xFF)] [] 0x0000 [])
    (fun t => [t.regs.d, t.regs.e, t.regs.h, t.regs.l]) = some [0x00, 0xFF, 0x33, 0x55] := by decide +kernel

theorem test_add_b_carry : after (mk [0x80] [(.a, 0xFF), (.b, 0x01)] [] 0x0000 [])
    aFlags = some (0x00, [1, 0, 1, 1, 1]) := by decide +kernel

theorem test_add_ignores_cy : after (mk [0x80] [(.a, 0x0F), (.b, 0x01)] [0, 0, 0, 1, 0] 0x0000 [])
    aFlags = some (0x10, [0, 0, 0, 0, 1]) := by decide +kernel

theorem test_add_m : after (mk [0x86] [(.a, 0x12), (.h, 0x20), (.l, 0x00)] [] 0x0000 [(0x2000, 0x34)])
    aFlags = some (0x46, [0, 0, 0, 0, 0]) := by decide +kernel

theorem test_adi_clears_carries : after (mk [0xC6, 0x00] [(.a, 0x55)] [0, 0, 0, 1, 1] 0x0000 [])
    aFlags = some (0x55, [0, 0, 1, 0, 0]) := by decide +kernel

theorem test_adc_b : after (mk [0x88] [(.a, 0xFF), (.b, 0xFF)] [0, 0, 0, 1, 0] 0x0000 [])
    aFlags = some (0xFF, [0, 1, 1, 1, 1]) := by decide +kernel

theorem test_adc_a : after (mk [0x8F] [(.a, 0x0F)] [0, 0, 0, 1, 0] 0x0000 [])
    aFlags = some (0x1F, [0, 0, 0, 0, 1]) := by decide +kernel

theorem test_adc_m : after (mk [0x8E] [(.a, 0x7F), (.h, 0x20), (.l, 0x00)] [] 0x0000 [(0x2000, 0x00)])
    aFlags = some (0x7F, [0, 0, 0, 0, 0]) := by decide +kernel

theorem test_aci : after (mk [0xCE, 0xBE] [(.a, 0x56)] [] 0x0000 [])
    aFlags = some (0x14, [0, 0, 1, 1, 1]) := by decide +kernel

theorem test_sub_b_borrow : after (mk [0x90] [(.a, 0x00), (.b, 0x01)] [] 0x0000 [])
    aFlags = some (0xFF, [0, 1, 1, 1, 0]) := by decide +kernel

theorem test_sub_a : after (mk [0x97] [(.a, 0x3E)] [0, 0, 0, 1, 0] 0x0000 [])
    aFlags = some (0x00, [1, 0, 1, 0, 1]) := by decide +kernel

theorem test_sub_m : after (mk [0x96] [(.a, 0x50), (.h, 0x20), (.l, 0x00)] [] 0x0000 [(0x2000, 0x50)])
    aFlags = some (0x00, [1, 0, 1, 0, 1]) := by decide +kernel

theorem test_sui : after (mk [0xD6, 0x01] [(.a, 0x00)] [] 0x0000 [])
    aFlags = some (0xFF, [0, 1, 1, 1, 0]) := by decide +kernel

theorem test_sbb_b : after (mk [0x98] [(.a, 0x00), (.b, 0xFF)] [0, 0, 0, 1, 0] 0x0000 [])
    aFlags = some (0x00, [1, 0, 1, 1, 0]) := by decide +kernel

theorem test_sbb_a : after (mk [0x9F] [(.a, 0x77)] [0, 0, 0, 1, 0] 0x0000 [])
    aFlags = some (0xFF, [0, 1, 1, 1, 0]) := by decide +kernel

theorem test_sbb_m : after (mk [0x9E] [(.a, 0x10), (.h, 0x20), (.l, 0x00)] [0, 0, 0, 1, 0] 0x0000 [(0x2000, 0x0F)])
    aFlags = some (0x00, [1, 0, 1, 0, 0]) := by decide +kernel

theorem test_sbi : after (mk [0xDE, 0xFF] [(.a, 0x00)] [0, 0, 0, 1, 0] 0x0000 [])
    aFlags = some (0x00, [1, 0, 1, 1, 0]) := by decide +kernel

theorem test_inr_b_keeps_cy : after (mk [0x04] [(.b, 0xFF)] [0, 0, 0, 1, 0] 0x0000 [])
    (fun t => (t.regs.b, zspca t)) = some (0x00, [1, 0, 1, 1, 1]) := by decide +kernel

theorem test_inr_c : after (mk [0x0C] [(.c, 0x99)] [] 0x0000 [])
    (fun t => (t.regs.c, zspca t)) = some (0x9A, [0, 1, 1, 0, 0]) := by decide +kernel

theorem test_inr_m : after (mk [0x34] [(.h, 0x20), (.l, 0x10)] [] 0x0000 [(0x2010, 0x2F)])
    (fun t => (bytesAt [0x2010] t, zspca t)) = some ([0x30], [0, 0, 1, 0, 1]) := by decide +kernel

theorem test_dcr_b_wraps : after (mk [0x05] [(.b, 0x00)] [] 0x0000 [])
    (fun t => (t.regs.b, zspca t)) = some (0xFF, [0, 1, 1, 0, 0]) := by decide +kernel

theorem test_dcr_a_half : after (mk [0x3D] [(.a, 0x10)] [] 0x0000 [])
    aFlags = some (0x0F, [0, 0, 1, 0, 0]) := by decide +kernel

theorem test_dcr_m : after (mk [0x35] [(.h, 0x20), (.l, 0x10)] [0, 0, 0, 1, 0] 0x0000 [(0x2010, 0x00)])
    (fun t => (bytesAt [0x2010] t, zspca t)) = some ([0xFF], [0, 1, 1, 1, 0]) := by decide +kernel

theorem test_inx_h : after (mk [0x23] [(.h, 0x12), (.l, 0xFF)] [1, 0, 0, 0, 0] 0x0000 [])
    (fun t => (t.regs.h, t.regs.l, zspca t)) = some (0x13, 0x00, [1, 0, 0, 0, 0]) := by decide +kernel

theorem test_inx_sp_wraps : after (mk [0x33] [] [] 0xFFFF [])
    (fun t => t.sp) = some 0x0000 := by decide +kernel

theorem test_dcx_d_wraps : after (mk [0x1B] [] [] 0x0000 [])
    (fun t => (t.regs.d, t.regs.e)) = some (0xFF, 0xFF) := by decide +kernel

theorem test_dad_b : after (mk [0x09] [(.h, 0xA1), (.l, 0x7B), (.b, 0x33), (.c, 0x9F)] [] 0x0000 [])
    (fun t => (t.hl, zspca t)) = some (0xD51A, [0, 0, 0, 0, 0]) := by decide +kernel

theorem test_dad_h_doubles : after (mk [0x29] [(.h, 0x80), (.l, 0x01)] [] 0x0000 [])
    (fun t => (t.hl, zspca t)) = some (0x0002, [0, 0, 0, 1, 0]) := by decide +kernel

theorem test_daa_both_steps : after (mk [0x27] [(.a, 0x9B)] [] 0x0000 [])
    aFlags = some (0x01, [0, 0, 0, 1, 1]) := by decide +kernel

theorem test_daa_carry_of_step_1 : after (mk [0x27] [(.a, 0xFA)] [] 0x0000 [])
    aFlags = some (0x60, [0, 0, 1, 1, 1]) := by decide +kernel

theorem test_ana_b_8085 : after (mk [0xA0] [(.a, 0xF0), (.b, 0x07)] [] 0x0000 [])
    aFlags = some (0x00, [1, 0, 1, 0, 1]) := by decide +kernel

theorem test_ana_b_8080 : after { mk [0xA0] [(.a, 0xF0), (.b, 0x07)] [] 0x0000 [] with platform := Platform.standard .v8080A }
    aFlags = some (0x00, [1, 0, 1, 0, 0]) := by decide +kernel

theorem test_ana_m : after (mk [0xA6] [(.a, 0x3C), (.h, 0x20), (.l, 0x00)] [] 0x0000 [(0x2000, 0x0F)])
    aFlags = some (0x0C, [0, 0, 1, 0, 1]) := by decide +kernel

theorem test_ani : after (mk [0xE6, 0x00] [(.a, 0xFF)] [0, 0, 0, 1, 0] 0x0000 [])
    aFlags = some (0x00, [1, 0, 1, 0, 1]) := by decide +kernel

theorem test_xra_a : after (mk [0xAF] [(.a, 0x5A)] [0, 0, 0, 1, 1] 0x0000 [])
    aFlags = some (0x00, [1, 0, 1, 0, 0]) := by decide +kernel

theorem test_xra_m : after (mk [0xAE] [(.a, 0x55), (.h, 0x20), (.l, 0x00)] [] 0x0000 [(0x2000, 0xAA)])
    aFlags = some (0xFF, [0, 1, 1, 0, 0]) := by decide +kernel

theorem test_xri : after (mk [0xEE, 0x81] [(.a, 0x3B)] [] 0x0000 [])
    aFlags = some (0xBA, [0, 1, 0, 0, 0]) := by decide +kernel

theorem test_ora_b : after (mk [0xB0] [(.a, 0x80), (.b, 0x01)] [0, 0, 0, 1, 0] 0x0000 [])
    aFlags = some (0x81, [0, 1, 1, 0, 0]) := by decide +kernel

theorem test_ora_m : after (mk [0xB6] [(.a, 0x10), (.h, 0x20), (.l, 0x00)] [] 0x0000 [(0x2000, 0x01)])
    aFlags = some (0x11, [0, 0, 1, 0, 0]) := by decide +kernel

theorem test_ori : after (mk [0xF6, 0x0F] [(.a, 0xB5)] [] 0x0000 [])
    aFlags = some (0xBF, [0, 1, 0, 0, 0]) := by decide +kernel

theorem test_cmp_b_unsigned : after (mk [0xB8] [(.a, 0x7F), (.b, 0x80)] [] 0x0000 [])
    aFlags = some (0x7F, [0, 1, 1, 1, 1]) := by decide +kernel

theorem test_cmp_e : after (mk [0xBB] [(.a, 0x0A), (.e, 0x05)] [] 0x0000 [])
    aFlags = some (0x0A, [0, 0, 1, 0, 1]) := by decide +kernel

theorem test_cmp_m : after (mk [0xBE] [(.a, 0x20), (.h, 0x20), (.l, 0x00)] [] 0x0000 [(0x2000, 0x20)])
    aFlags = some (0x20, [1, 0, 1, 0, 1]) := by decide +kernel

theorem test_cpi : after (mk [0xFE, 0xFF] [(.a, 0xFE)] [] 0x0000 [])
    aFlags = some (0xFE, [0, 1, 1, 1, 0]) := by decide +kernel

theorem test_rlc : after (mk [0x07] [(.a, 0xF2)] [1, 0, 1, 0, 1] 0x0000 [])
    aFlags = some (0xE5, [1, 0, 1, 1, 1]) := by decide +kernel

theorem test_rlc_drops_cy : after (mk [0x07] [(.a, 0x01)] [1, 0, 1, 1, 1] 0x0000 [])
    aFlags = some (0x02, [1, 0, 1, 0, 1]) := by decide +kernel

theorem test_rrc : after (mk [0x0F] [(.a, 0xF2)] [1, 0, 1, 0, 1] 0x0000 [])
    aFlags = some (0x79, [1, 0, 1, 0, 1]) := by decide +kernel

theorem test_rrc_to_bit_7 : after (mk [0x0F] [(.a, 0x01)] [1, 0, 1, 0, 1] 0x0000 [])
    aFlags = some (0x80, [1, 0, 1, 1, 1]) := by decide +kernel

theorem test_ral : after (mk [0x17] [(.a, 0xB5)] [1, 0, 1, 0, 1] 0x0000 [])
    aFlags = some (0x6A, [1, 0, 1, 1, 1]) := by decide +kernel

theorem test_ral_takes_cy : after (mk [0x17] [(.a, 0x7F)] [1, 0, 1, 1, 1] 0x0000 [])
    aFlags = some (0xFF, [1, 0, 1, 0, 1]) := by decide +kernel

theorem test_rar : after (mk [0x1F] [(.a, 0x6A)] [1, 0, 1, 1, 1] 0x0000 [])
    aFlags = some (0xB5, [1, 0, 1, 0, 1]) := by decide +kernel

theorem test_rar_out : after (mk [0x1F] [(.a, 0x01)] [1, 0, 1, 0, 1] 0x0000 [])
    aFlags = some (0x00, [1, 0, 1, 1, 1]) := by decide +kernel

theorem test_cma : after (mk [0x2F] [(.a, 0x51)] [1, 0, 1, 1, 1] 0x0000 [])
    aFlags = some (0xAE, [1, 0, 1, 1, 1]) := by decide +kernel

theorem test_cmc : after (mk [0x3F] [(.a, 0x00)] [1, 0, 1, 1, 1] 0x0000 [])
    aFlags = some (0x00, [1, 0, 1, 0, 1]) := by decide +kernel

theorem test_stc : after (mk [0x37] [(.a, 0x00)] [1, 0, 1, 0, 1] 0x0000 [])
    aFlags = some (0x00, [1, 0, 1, 1, 1]) := by decide +kernel

theorem test_jmp : after (mk [0xC3, 0x34, 0x12] [] [] 0x0000 [])
    (fun t => t.pc) = some 0x1234 := by decide +kernel

theorem test_jnz_taken : after (mk [0xC2, 0x34, 0x12] [] [0, 0, 0, 0, 0] 0x0000 [])
    (fun t => t.pc) = some 0x1234 := by decide +kernel

theorem test_jnz_not_taken : after (mk [0xC2, 0x34, 0x12] [] [1, 0, 0, 0, 0] 0x0000 [])
    (fun t => t.pc) = some 0x0103 := by decide +kernel

theorem test_cnz_taken : after (mk [0xC4, 0x34, 0x12] [] [0, 0, 0, 0, 0] 0x3000 [])
    (fun t => (t.pc, t.sp, bytesAt [0x2FFF, 0x2FFE] t)) = some (0x1234, 0x2FFE, [0x01, 0x03]) := by decide +kernel

theorem test_cnz_not_taken : after (mk [0xC4, 0x34, 0x12] [] [1, 0, 0, 0, 0] 0x3000 [])
    (fun t => (t.pc, t.sp, bytesAt [0x2FFF, 0x2FFE] t)) = some (0x0103, 0x3000, [0x00, 0x00]) := by decide +kernel

theorem test_rnz_taken : after (mk [0xC0] [] [0, 0, 0, 0, 0] 0x3000 [(0x3000, 0x78), (0x3001, 0x56)])
    (fun t => (t.pc, t.sp)) = some (0x5678, 0x3002) := by decide +kernel

theorem test_rnz_not_taken : after (mk [0xC0] [] [1, 0, 0, 0, 0] 0x3000 [(0x3000, 0x78), (0x3001, 0x56)])
    (fun t => (t.pc, t.sp)) = some (0x0101, 0x3000) := by decide +kernel

theorem test_jz_taken : after (mk [0xCA, 0x34, 0x12] [] [1, 0, 0, 0, 0] 0x0000 [])
    (fun t => t.pc) = some 0x1234 := by decide +kernel

theorem test_jz_not_taken : after (mk [0xCA, 0x34, 0x12] [] [0, 0, 0, 0, 0] 0x0000 [])
    (fun t => t.pc) = some 0x0103 := by decide +kernel

theorem test_cz_taken : after (mk [0xCC, 0x34, 0x12] [] [1, 0, 0, 0, 0] 0x3000 [])
    (fun t => (t.pc, t.sp, bytesAt [0x2FFF, 0x2FFE] t)) = some (0x1234, 0x2FFE, [0x01, 0x03]) := by decide +kernel

theorem test_cz_not_taken : after (mk [0xCC, 0x34, 0x12] [] [0, 0, 0, 0, 0] 0x3000 [])
    (fun t => (t.pc, t.sp, bytesAt [0x2FFF, 0x2FFE] t)) = some (0x0103, 0x3000, [0x00, 0x00]) := by decide +kernel

theorem test_rz_taken : after (mk [0xC8] [] [1, 0, 0, 0, 0] 0x3000 [(0x3000, 0x78), (0x3001, 0x56)])
    (fun t => (t.pc, t.sp)) = some (0x5678, 0x3002) := by decide +kernel

theorem test_rz_not_taken : after (mk [0xC8] [] [0, 0, 0, 0, 0] 0x3000 [(0x3000, 0x78), (0x3001, 0x56)])
    (fun t => (t.pc, t.sp)) = some (0x0101, 0x3000) := by decide +kernel

theorem test_jnc_taken : after (mk [0xD2, 0x34, 0x12] [] [0, 0, 0, 0, 0] 0x0000 [])
    (fun t => t.pc) = some 0x1234 := by decide +kernel

theorem test_jnc_not_taken : after (mk [0xD2, 0x34, 0x12] [] [0, 0, 0, 1, 0] 0x0000 [])
    (fun t => t.pc) = some 0x0103 := by decide +kernel

theorem test_cnc_taken : after (mk [0xD4, 0x34, 0x12] [] [0, 0, 0, 0, 0] 0x3000 [])
    (fun t => (t.pc, t.sp, bytesAt [0x2FFF, 0x2FFE] t)) = some (0x1234, 0x2FFE, [0x01, 0x03]) := by decide +kernel

theorem test_cnc_not_taken : after (mk [0xD4, 0x34, 0x12] [] [0, 0, 0, 1, 0] 0x3000 [])
    (fun t => (t.pc, t.sp, bytesAt [0x2FFF, 0x2FFE] t)) = some (0x0103, 0x3000, [0x00, 0x00]) := by decide +kernel

theorem test_rnc_taken : after (mk [0xD0] [] [0, 0, 0, 0, 0] 0x3000 [(0x3000, 0x78), (0x3001, 0x56)])
    (fun t => (t.pc, t.sp)) = some (0x5678, 0x3002) := by decide +kernel

theorem test_rnc_not_taken : after (mk [0xD0] [] [0, 0, 0, 1, 0] 0x3000 [(0x3000, 0x78), (0x3001, 0x56)])
    (fun t => (t.pc, t.sp)) = some (0x0101, 0x3000) := by decide +kernel

theorem test_jc_taken : after (mk [0xDA, 0x34, 0x12] [] [0, 0, 0, 1, 0] 0x0000 [])
    (fun t => t.pc) = some 0x1234 := by decide +kernel

theorem test_jc_not_taken : after (mk [0xDA, 0x34, 0x12] [] [0, 0, 0, 0, 0] 0x0000 [])
    (fun t => t.pc) = some 0x0103 := by decide +kernel

theorem test_cc_taken : after (mk [0xDC, 0x34, 0x12] [] [0, 0, 0, 1, 0] 0x3000 [])
    (fun t => (t.pc, t.sp, bytesAt [0x2FFF, 0x2FFE] t)) = some (0x1234, 0x2FFE, [0x01, 0x03]) := by decide +kernel

theorem test_cc_not_taken : after (mk [0xDC, 0x34, 0x12] [] [0, 0, 0, 0, 0] 0x3000 [])
    (fun t => (t.pc, t.sp, bytesAt [0x2FFF, 0x2FFE] t)) = some (0x0103, 0x3000, [0x00, 0x00]) := by decide +kernel

theorem test_rc_taken : after (mk [0xD8] [] [0, 0, 0, 1, 0] 0x3000 [(0x3000, 0x78), (0x3001, 0x56)])
    (fun t => (t.pc, t.sp)) = some (0x5678, 0x3002) := by decide +kernel

theorem test_rc_not_taken : after (mk [0xD8] [] [0, 0, 0, 0, 0] 0x3000 [(0x3000, 0x78), (0x3001, 0x56)])
    (fun t => (t.pc, t.sp)) = some (0x0101, 0x3000) := by decide +kernel

theorem test_jpo_taken : after (mk [0xE2, 0x34, 0x12] [] [0, 0, 0, 0, 0] 0x0000 [])
    (fun t => t.pc) = some 0x1234 := by decide +kernel

theorem test_jpo_not_taken : after (mk [0xE2, 0x34, 0x12] [] [0, 0, 1, 0, 0] 0x0000 [])
    (fun t => t.pc) = some 0x0103 := by decide +kernel

theorem test_cpo_taken : after (mk [0xE4, 0x34, 0x12] [] [0, 0, 0, 0, 0] 0x3000 [])
    (fun t => (t.pc, t.sp, bytesAt [0x2FFF, 0x2FFE] t)) = some (0x1234, 0x2FFE, [0x01, 0x03]) := by decide +kernel

theorem test_cpo_not_taken : after (mk [0xE4, 0x34, 0x12] [] [0, 0, 1, 0, 0] 0x3000 [])
    (fun t => (t.pc, t.sp, bytesAt [0x2FFF, 0x2FFE] t)) = some (0x0103, 0x3000, [0x00, 0x00]) := by decide +kernel

theorem test_rpo_taken : after (mk [0xE0] [] [0, 0, 0, 0, 0] 0x3000 [(0x3000, 0x78), (0x3001, 0x56)])
    (fun t => (t.pc, t.sp)) = some (0x5678, 0x3002) := by decide +kernel

theorem test_rpo_not_taken : after (mk [0xE0] [] [0, 0, 1, 0, 0] 0x3000 [(0x3000, 0x78), (0x3001, 0x56)])
    (fun t => (t.pc, t.sp)) = some (0x0101, 0x3000) := by decide +kernel

theorem test_jpe_taken : after (mk [0xEA, 0x34, 0x12] [] [0, 0, 1, 0, 0] 0x0000 [])
    (fun t => t.pc) = some 0x1234 := by decide +kernel

theorem test_jpe_not_taken : after (mk [0xEA, 0x34, 0x12] [] [0, 0, 0, 0, 0] 0x0000 [])
    (fun t => t.pc) = some 0x0103 := by decide +kernel

theorem test_cpe_taken : after (mk [0xEC, 0x34, 0x12] [] [0, 0, 1, 0, 0] 0x3000 [])
    (fun t => (t.pc, t.sp, bytesAt [0x2FFF, 0x2FFE] t)) = some (0x1234, 0x2FFE, [0x01, 0x03]) := by decide +kernel

theorem test_cpe_not_taken : after (mk [0xEC, 0x34, 0x12] [] [0, 0, 0, 0, 0] 0x3000 [])
    (fun t => (t.pc, t.sp, bytesAt [0x2FFF, 0x2FFE] t)) = some (0x0103, 0x3000, [0x00, 0x00]) := by decide +kernel

theorem test_rpe_taken : after (mk [0xE8] [] [0, 0, 1, 0, 0] 0x3000 [(0x3000, 0x78), (0x3001, 0x56)])
    (fun t => (t.pc, t.sp)) = some (0x5678, 0x3002) := by decide +kernel

theorem test_rpe_not_taken : after (mk [0xE8] [] [0, 0, 0, 0, 0] 0x3000 [(0x3000, 0x78), (0x3001, 0x56)])
    (fun t => (t.pc, t.sp)) = some (0x0101, 0x3000) := by decide +kernel

theorem test_jp_taken : after (mk [0xF2, 0x34, 0x12] [] [0, 0, 0, 0, 0] 0x0000 [])
    (fun t => t.pc) = some 0x1234 := by decide +kernel

theorem test_jp_not_taken : after (mk [0xF2, 0x34, 0x12] [] [0, 1, 0, 0, 0] 0x0000 [])
    (fun t => t.pc) = some 0x0103 := by decide +kernel

theorem test_cp_taken : after (mk [0xF4, 0x34, 0x12] [] [0, 0, 0, 0, 0] 0x3000 [])
    (fun t => (t.pc, t.sp, bytesAt [0x2FFF, 0x2FFE] t)) = some (0x1234, 0x2FFE, [0x01, 0x03]) := by decide +kernel

theorem test_cp_not_taken : after (mk [0xF4, 0x34, 0x12] [] [0, 1, 0, 0, 0] 0x3000 [])
    (fun t => (t.pc, t.sp, bytesAt [0x2FFF, 0x2FFE] t)) = some (0x0103, 0x3000, [0x00, 0x00]) := by decide +kernel

theorem test_rp_taken : after (mk [0xF0] [] [0, 0, 0, 0, 0] 0x3000 [(0x3000, 0x78), (0x3001, 0x56)])
    (fun t => (t.pc, t.sp)) = some (0x5678, 0x3002) := by decide +kernel

theorem test_rp_not_taken : after (mk [0xF0] [] [0, 1, 0, 0, 0] 0x3000 [(0x3000, 0x78), (0x3001, 0x56)])
    (fun t => (t.pc, t.sp)) = some (0x0101, 0x3000) := by decide +kernel

theorem test_jm_taken : after (mk [0xFA, 0x34, 0x12] [] [0, 1, 0, 0, 0] 0x0000 [])
    (fun t => t.pc) = some 0x1234 := by decide +kernel

theorem test_jm_not_taken : after (mk [0xFA, 0x34, 0x12] [] [0, 0, 0, 0, 0] 0x0000 [])
    (fun t => t.pc) = some 0x0103 := by decide +kernel

theorem test_cm_taken : after (mk [0xFC, 0x34, 0x12] [] [0, 1, 0, 0, 0] 0x3000 [])
    (fun t => (t.pc, t.sp, bytesAt [0x2FFF, 0x2FFE] t)) = some (0x1234, 0x2FFE, [0x01, 0x03]) := by decide +kernel

theorem test_cm_not_taken : after (mk [0xFC, 0x34, 0x12] [] [0, 0, 0, 0, 0] 0x3000 [])
    (fun t => (t.pc, t.sp, bytesAt [0x2FFF, 0x2FFE] t)) = some (0x0103, 0x3000, [0x00, 0x00]) := by decide +kernel

theorem test_rm_taken : after (mk [0xF8] [] [0, 1, 0, 0, 0] 0x3000 [(0x3000, 0x78), (0x3001, 0x56)])
    (fun t => (t.pc, t.sp)) = some (0x5678, 0x3002) := by decide +kernel

theorem test_rm_not_taken : after (mk [0xF8] [] [0, 0, 0, 0, 0] 0x3000 [(0x3000, 0x78), (0x3001, 0x56)])
    (fun t => (t.pc, t.sp)) = some (0x0101, 0x3000) := by decide +kernel

theorem test_call_over_itself : after (mk [0xCD, 0x00, 0x20] [] [] 0x0103 [])
    (fun t => (t.pc, t.sp, bytesAt [0x0102, 0x0101] t)) = some (0x2000, 0x0101, [0x01, 0x03]) := by decide +kernel

theorem test_ret_wraps : after (mk [0xC9] [] [] 0xFFFF [(0xFFFF, 0x34), (0x0000, 0x12)])
    (fun t => (t.pc, t.sp)) = some (0x1234, 0x0001) := by decide +kernel

theorem test_rst_3 : after (mk [0xDF] [] [] 0x4000 [])
    (fun t => (t.pc, t.sp, bytesAt [0x3FFF, 0x3FFE] t)) = some (0x0018, 0x3FFE, [0x01, 0x01]) := by decide +kernel

theorem test_pchl : after (mk [0xE9] [(.h, 0x41), (.l, 0x3E)] [] 0x0000 [])
    (fun t => t.pc) = some 0x413E := by decide +kernel

theorem test_push_b_wraps : after (mk [0xC5] [(.b, 0x12), (.c, 0x34)] [] 0x0001 [])
    (fun t => (bytesAt [0x0000, 0xFFFF] t, t.sp)) = some ([0x12, 0x34], 0xFFFF) := by decide +kernel

theorem test_push_psw : after (mk [0xF5] [(.a, 0x1F)] [1, 0, 1, 1, 0] 0x502A [])
    (fun t => (t.sp, t.env.draws)) = some (0x5028, 1) := by decide +kernel

theorem test_pop_h : after (mk [0xE1] [] [] 0x1239 [(0x1239, 0x3D), (0x123A, 0x93)])
    (fun t => (t.regs.l, t.regs.h, t.sp)) = some (0x3D, 0x93, 0x123B) := by decide +kernel

theorem test_pop_psw_ignores_x : after (mk [0xF1] [] [1, 1, 1, 1, 1] 0x2000 [(0x2000, 0x2A), (0x2001, 0x99)])
    (fun t => (aFlags t, t.sp)) = some ((0x99, [0, 0, 0, 0, 0]), 0x2002) := by decide +kernel

theorem test_pop_psw : after (mk [0xF1] [] [] 0x2C00 [(0x2C00, 0xC3), (0x2C01, 0xFF)])
    (fun t => (aFlags t, t.sp)) = some ((0xFF, [1, 1, 0, 1, 0]), 0x2C02) := by decide +kernel

theorem test_xthl : after (mk [0xE3] [(.h, 0x0B), (.l, 0x3C)] [] 0x10AD [(0x10AD, 0xF0), (0x10AE, 0x0D)])
    (fun t => (t.hl, bytesAt [0x10AD, 0x10AE] t, t.sp)) = some (0x0DF0, [0x3C, 0x0B], 0x10AD) := by decide +kernel

theorem test_sphl : after (mk [0xF9] [(.h, 0x50), (.l, 0x6C)] [] 0x0000 [])
    (fun t => (t.sp, t.hl)) = some (0x506C, 0x506C) := by decide +kernel

theorem test_in_keeps_z : after { mk [0xDB, 0xFF] [] [1, 0, 0, 0, 0] 0x0000 [] with env := { Env.idle with io := [0xA5] } }
    aFlags = some (0xA5, [1, 0, 0, 0, 0]) := by decide +kernel

theorem test_out : after (mk [0xD3, 0x00] [(.a, 0x80)] [] 0x0000 [])
    (fun t => t.env.trace) = some [.ioWrite 0x00 0x80] := by decide +kernel

theorem test_ei_delays : after (mk [0xFB] [] [] 0x0000 [])
    (fun t => [t.ctl.ie, t.ctl.eiPend, t.ctl.intInhibit]) = some [false, true, true] := by decide +kernel

theorem test_nop_after_ei : after { mk [0x00] [] [] 0x0000 [] with ctl := { State.reset.ctl with eiPend := true, intInhibit := true } }
    (fun t => ([t.ctl.ie, t.ctl.eiPend, t.ctl.intInhibit], t.pc)) = some ([true, false, false], 0x0101) := by decide +kernel

theorem test_di_after_ei : after { mk [0xF3] [] [] 0x0000 [] with ctl := { State.reset.ctl with eiPend := true, intInhibit := true } }
    (fun t => [t.ctl.ie, t.ctl.eiPend, t.ctl.intInhibit]) = some [false, false, true] := by decide +kernel

theorem test_ei_after_ei : after { mk [0xFB] [] [] 0x0000 [] with ctl := { State.reset.ctl with eiPend := true, intInhibit := true } }
    (fun t => [t.ctl.ie, t.ctl.eiPend, t.ctl.intInhibit]) = some [true, true, true] := by decide +kernel

theorem test_hlt_after_ei : after { mk [0x76] [] [] 0x0000 [] with ctl := { State.reset.ctl with eiPend := true, intInhibit := true } }
    (fun t => ([t.ctl.halted, t.ctl.ie, t.ctl.intInhibit], t.pc)) = some ([true, true, false], 0x0101) := by decide +kernel

theorem test_rim_serial_and_latch : after { mk [0x20] [] [] 0x0000 [] with ctl := { State.reset.ctl with m55 := false, m75 := false, ie := true, r75 := true, intInhibit := true }, env := { Env.idle with rim := [{ sid := true, rst65 := false, rst55 := false }] } }
    (fun t => t.regs.a) = some 0xCA := by decide +kernel

theorem test_rim_after_trap : after { mk [0x20] [] [] 0x0000 [] with ctl := { State.reset.ctl with trapRim := true, ieTrap := true }, env := { Env.idle with rim := [{ sid := false, rst65 := false, rst55 := false }] } }
    (fun t => (t.regs.a, t.ctl.trapRim)) = some (0x0F, false) := by decide +kernel

theorem test_sim_all : after { mk [0x30] [(.a, 0xFF)] [] 0x0000 [] with ctl := { State.reset.ctl with m65 := false, m55 := false, r75 := true } }
    (fun t => [t.ctl.m75, t.ctl.m65, t.ctl.m55, t.ctl.r75, t.ctl.sod]) = some [true, true, true, false, true] := by decide +kernel

theorem test_sim_masks_need_bit_3 : after { mk [0x30] [(.a, 0x07)] [] 0x0000 [] with ctl := { State.reset.ctl with m65 := false, m55 := false, r75 := true } }
    (fun t => [t.ctl.m75, t.ctl.m65, t.ctl.m55, t.ctl.r75, t.ctl.sod]) = some [true, false, false, true, false] := by decide +kernel

/-- A refused step: none of the vectors' successor states (R80, R81). -/
def refusedWith (s : State) : Option Refusal :=
  match step s with
  | .next _ => none
  | .fault _ => none
  | .refused r => some r

-- the byte PUSH PSW stores, with X bits 000 and with X bits 111 (vector of R202)
theorem test_flag_byte : let f : Flags := { z := true, s := false, p := true, cy := true, ac := false }
    flagByte f 0#3 = 0x45#8 ∧ flagByte f 7#3 = 0x6F#8 := by decide

theorem test_undefined_refused : refusedWith (mk [0x08] [] [] 0x0000 []) = some (.undefinedOpcode 0x08) := by decide +kernel

theorem test_rim_refused_on_8080 :
    refusedWith { mk [0x20] [] [] 0x0000 [] with platform := Platform.standard .v8080A } = some (.undefinedOpcode 0x20) := by
  decide +kernel

theorem test_sim_refused_on_8080 :
    refusedWith { mk [0x30] [] [] 0x0000 [] with platform := Platform.standard .v8080A } = some (.undefinedOpcode 0x30) := by
  decide +kernel

/-! ## Interrupts, halt and reset: sequences of 95_test_vectors.md, Part 3, one boundary at a time -/

/-- A query that asserts what its arguments say. -/
def lines (trap edge r65 r55 intr : Bool) (bytes : List Byte) : BoundaryInput :=
  .query { trap := trap, rst75Edge := edge, rst65 := r65, rst55 := r55, intr := intr, intrBytes := bytes }

/-- Two NOPs at 0100H, SP 3000H, IE 1, all masks 0, and one boundary input. -/
def atBoundary (q : BoundaryInput) : State :=
  { mk [0x00, 0x00] [] [] 0x3000 [] with
    ctl := { State.reset.ctl with ie := true, m55 := false, m65 := false, m75 := false }
    env := { Env.idle with boundary := [q] } }

/-- PC, SP, the pushed bytes and IE. -/
def entered (t : State) : Word × Word × List Byte × Bool := (t.pc, t.sp, bytesAt [0x2FFF, 0x2FFE] t, t.ctl.ie)

-- S8, line 1: all five at once, TRAP wins; the edge of RST 7.5 stays latched
theorem test_s8_trap_wins : after (atBoundary (lines true true true true true [0xFF]))
    (fun t => (entered t, t.ctl.r75, t.ctl.ieTrap, t.ctl.trapRim)) =
    some ((0x0024, 0x2FFE, [0x01, 0x00], false), true, true, true) := by decide +kernel

-- S8, line 4: RST 7.5 before the levels, its latch cleared
theorem test_s8_rst75_next : after (atBoundary (lines false true true true true [0xFF]))
    (fun t => (entered t, t.ctl.r75)) = some ((0x003C, 0x2FFE, [0x01, 0x00], false), false) := by decide +kernel

-- S9: INTR with RST 2, with CALL 1234H, with EI
theorem test_s9_intr_rst : after (atBoundary (lines false false false false true [0xD7])) entered =
    some (0x0010, 0x2FFE, [0x01, 0x00], false) := by decide +kernel

theorem test_s9_intr_call : after (atBoundary (lines false false false false true [0xCD, 0x34, 0x12])) entered =
    some (0x1234, 0x2FFE, [0x01, 0x00], false) := by decide +kernel

theorem test_s9_intr_ei_refused : refusedWith (atBoundary (lines false false false false true [0xFB])) =
    some (.prohibitedAcknowledge [0xFB]) := by decide +kernel

-- S7: the boundary after EI is shut, even for TRAP
theorem test_s7_inhibited : after
    { atBoundary (lines true false false false false []) with
      ctl := { State.reset.ctl with eiPend := true, intInhibit := true } }
    (fun t => (t.pc, t.ctl.ie, t.ctl.trapRim)) = some (0x0101, true, false) := by decide +kernel

-- S5: a masked line is not taken
theorem test_s5_masked : after { atBoundary (lines false false true true false []) with
      ctl := { State.reset.ctl with ie := true } } (fun t => (t.pc, t.ctl.ie)) = some (0x0101, true) := by decide +kernel

-- S11: halted with IE 0, RST 5.5 does nothing, TRAP restarts
theorem test_s11_stays_halted : after { atBoundary (lines false false false true false []) with
      ctl := { State.reset.ctl with halted := true, m55 := false } } (fun t => (t.pc, t.ctl.halted)) = some (0x0100, true) := by
  decide +kernel

theorem test_s11_trap_restarts : after { atBoundary (lines true false false false false []) with
      ctl := { State.reset.ctl with halted := true } } (fun t => (entered t, t.ctl.halted)) =
    some ((0x0024, 0x2FFE, [0x01, 0x00], false), false) := by decide +kernel

-- S12: the 8080A, its one input and RST 1
theorem test_s12_8080 : after { atBoundary (lines true true true true true [0xCF]) with
      platform := Platform.standard .v8080A } entered = some (0x0008, 0x2FFE, [0x01, 0x00], false) := by decide +kernel

-- S15: reset
theorem test_s15_reset : after (atBoundary .reset)
    (fun t => (t.pc, [t.ctl.ie, t.ctl.eiPend, t.ctl.intInhibit, t.ctl.halted, t.ctl.m75, t.ctl.m65, t.ctl.m55, t.ctl.r75,
      t.ctl.sod, t.ctl.trapRim])) =
    some (0x0000, [false, false, false, false, true, true, true, false, false, false]) := by decide +kernel

/-! ## Memory kinds -/

/-- `MOV A,M` and `MOV M,A` at 2000H where the map puts something else than RAM. -/
def mapped (op : Byte) (k : MemKind) : State :=
  let s := mk [op] [(.a, 0x77), (.h, 0x20)] [] 0x0000 []
  { s with
    platform := { s.platform with memMap := [{ base := 0x2000, size := 1, kind := k }], rom := [(0x2000, 0x5A)] }
    env := { Env.idle with bus := [0x99] } }

theorem test_read_rom : after (mapped 0x7E .rom) (fun t => (t.regs.a, t.env.bus)) = some (0x5A, [0x99]) := by decide +kernel

theorem test_read_device : after (mapped 0x7E .device) (fun t => (t.regs.a, t.env.trace)) =
    some (0x99, [.deviceRead 0x2000]) := by decide +kernel

-- R233, R54: an entry tells the environment of the acceptance; a stack write to a device follows
theorem test_entry_stack_on_device :
    (let s := atBoundary (lines true false false false false []);
      after { s with platform := { s.platform with memMap := [{ base := 0x2FFE, size := 1, kind := .device }] } }
        (fun t => t.env.trace)) = some [.accepted .trap, .deviceWrite 0x2FFE 0x00] := by decide +kernel

theorem test_write_rom_dropped : after (mapped 0x77 .rom) (fun t => (bytesAt [0x2000] t, t.env.trace)) = some ([0x00], []) := by
  decide +kernel

theorem test_write_device : after (mapped 0x77 .device) (fun t => (bytesAt [0x2000] t, t.env.trace)) =
    some ([0x00], [.deviceWrite 0x2000 0x77]) := by decide +kernel

/-! ## The interface: the first instruction after reset -/

theorem test_fetch_word_at_reset : after (State.reset.withFetchWord 24 0x1234C3) (fun t => t.pc) = some 0x1234 := by
  decide +kernel

theorem test_table_word : decodeTableWord 8 0x21 = some (.lxi .hl 0x0000) ∧ decodeTableWord 24 0x123421 = some (.lxi .hl 0x1234) := by
  decide +kernel
/-! ## Witnesses: for every obligation with hypotheses, states and operands that meet them -/

/-- A step that answers a next state. -/
theorem step_next {s : State} (h : (after s (fun _ => ())).isSome = true) : ∃ t, step s = .next t := by
  unfold after at h
  cases hs : step s with
  | next t => exact ⟨t, rfl⟩
  | fault r => simp [hs] at h
  | refused r => simp [hs] at h

theorem test_meets_EncodeOfDecode : decode [0x3E#8, 0x05#8, 0x00#8] = .ok (.mviR .a 0x05#8, [0x00#8]) := rfl

theorem test_meets_LengthFromFirstByte :
    0xC3#8 ∉ [0x08#8, 0x10#8, 0x18#8, 0x28#8, 0x38#8, 0xCB#8, 0xD9#8, 0xDD#8, 0xED#8, 0xFD#8] ∧
      opLength 0xC3#8 ≤ [0x34#8, 0x12#8].length + 1 ∧ [0x34#8].length + 1 < opLength 0xC3#8 := by decide

/-- The three bytes C2H 00H 20H (`JNZ 2000H`) at 0100H, the third in a device location, Z as given. -/
def jnzAtDevice (z : Nat) : State :=
  let s := mk [0xC2, 0x00, 0x20] [] [z] 0x3000 []
  { s with platform := { s.platform with memMap := [{ base := 0x0102, size := 1, kind := .device }] } }

-- not taken on the 8085A: byte 3 is not read, whatever it would be; in memory: a two-byte instruction before a device location
theorem test_meets_StepRunsTheDecodedInstruction :
    (let s := jnzAtDevice 1;
      Fetches s ∧ ∃ u, s.afterBoundary.readBytes s.pc (bytesRead s (.jnz 0xAA00#16)) = ([0xC2#8, 0x00#8], u) ∧
        decode ([0xC2#8, 0x00#8] ++ [0xAA#8]) = .ok (.jnz 0xAA00#16, [])) ∧
    (let s := mk [0x3E, 0x05] [] [] 0x3000 [];
      let d := { s with platform := { s.platform with memMap := [{ base := 0x0102, size := 1, kind := .device }] }, env := { Env.idle with bus := [0x99] } };
      Fetches d ∧ (∀ k, k < (encode (.mviR .a 0x05#8)).length → PlainAt d (d.pc + BitVec.ofNat 16 k)) ∧
        decode [d.byteAt d.pc, d.byteAt (d.pc + 1), d.byteAt (d.pc + 2)] = .ok (.mviR .a 0x05#8, [0x99#8])) := by
  refine ⟨⟨⟨⟨IntQuery.idle, rfl, rfl⟩, rfl⟩, _, rfl, rfl⟩, ⟨⟨IntQuery.idle, rfl, rfl⟩, rfl⟩, ?_, rfl⟩
  intro k hk
  match k, hk with
  | 0, _ => exact .inl rfl
  | 1, _ => exact .inl rfl

-- R12 item 3: byte 3 of the jump is read on the device only where the jump is taken
theorem test_jnz_byte3_at_device : [0, 1].map (fun z => after (jnzAtDevice z) (fun t => t.env.trace)) =
    [some [.deviceRead 0x0102], some []] := by decide +kernel

theorem test_meets_EveryInstructionCompletes :
    (Instr.daa.wellFormed State.reset.platform.variant = true) ∧
      (Instr.undef08.wellFormed State.reset.platform.variant = false) ∧
      (Instr.rim.wellFormed (State.powerUp (Platform.standard .v8080A)).platform.variant = false) := by decide

theorem test_meets_UndefinedOpcodesAreRefused : (State.powerUp (Platform.standard .v8080A)).platform.variant = .v8080A := rfl

theorem test_meets_DecimalAddition :
    let s := mk [0x88] [(.a, 0x99), (.b, 0x01)] [] 0x3000 []
    99 < 100 ∧ 1 < 100 ∧ s.regs.a = bcd 99 ∧ s.reg .b = bcd 1 := by decide

theorem test_meets_AndByPart :
    State.reset.platform.variant = .v8085A ∧ (State.powerUp (Platform.standard .v8080A)).platform.variant = .v8080A :=
  ⟨rfl, rfl⟩

-- SP at the edges where the stack addresses wrap
theorem test_meets_ReturnUndoesCall : [0x0000#16, 0x0001#16, 0x3000#16].all (fun sp =>
    let s := mk [0xCD, 0x00, 0x20] [] [] sp []
    decide (kindAt s.platform (s.sp - 1) = .ram ∧ kindAt s.platform (s.sp - 2) = .ram)) = true := by decide

theorem test_meets_PopPswUndoesPushPsw : [0x0000#16, 0x0001#16, 0x3000#16].all (fun sp =>
    let s := mk [0xF5] [(.a, 0x1F)] [1, 0, 1, 1, 0] sp []
    decide (kindAt s.platform (s.sp - 1) = .ram ∧ kindAt s.platform (s.sp - 2) = .ram)) = true := by decide

theorem test_meets_InAndOutReachThePort :
    ({ State.reset with env := { Env.idle with io := [0xA5#8] } }).env.io = 0xA5#8 :: [] ∧ State.reset.env.io = [] := ⟨rfl, rfl⟩

/-- An 8085A with TRAP outstanding or not, and one sample for `RIM` or none. -/
def atRim (trapRim : Bool) (rim : List RimSample) : State :=
  { State.reset with ctl := { State.reset.ctl with trapRim := trapRim }, env := { Env.idle with rim := rim } }

theorem test_meets_RimReadsMasksAndLines :
    let q : RimSample := { sid := true, rst65 := false, rst55 := true }
    ((atRim true [q]).platform.variant = .v8085A ∧ (atRim true [q]).ctl.trapRim = true ∧ (atRim true [q]).env.rim = [q]) ∧
      ((atRim false []).platform.variant = .v8085A ∧ (atRim false []).ctl.trapRim = false ∧
        (atRim false []).ctl.eiPend = false ∧ (atRim false []).env.rim = []) := by decide

theorem test_meets_SimWritesMasksLatchAndSod :
    (mk [0x30] [(.a, 0x0F)] [] 0x3000 []).platform.variant = .v8085A ∧
      (mk [0x30] [(.a, 0x0F)] [] 0x3000 []).regs.a.getLsbD 3 = true ∧
      (mk [0x30] [(.a, 0x07)] [] 0x3000 []).regs.a.getLsbD 3 = false := by decide

theorem test_meets_MemoryReadsWhatWasWritten :
    (0x2001#16 ≠ 0x2000#16 ∧ kindAt (mapped 0x7E .rom).platform 0x2001#16 = .ram ∧
        kindAt State.reset.platform 0xFFFF#16 = .ram ∧ kindAt State.reset.platform 0x0000#16 = .ram) ∧
      kindAt (mapped 0x7E .rom).platform 0x2000#16 = .rom ∧ kindAt (mapped 0x7E .absent).platform 0x2000#16 = .absent ∧
      kindAt (mapped 0x7E .device).platform 0x2000#16 = .device := by decide

theorem test_meets_ReadsBeyondMemoryAreInputs :
    kindAt (mapped 0x7E .absent).platform 0x2000#16 = .absent ∧ kindAt (mapped 0x7E .device).platform 0x2000#16 = .device ∧
      (mapped 0x7E .device).env.bus = 0x99#8 :: [] ∧ ({ mapped 0x7E .device with env := Env.idle }).env.bus = [] := by decide

theorem test_meets_OnlyTheTableWritesFlags : exec .nop State.reset = .next State.reset := rfl

theorem test_meets_OnlyTheirInstructionsWriteSpAndControl :
    -- a conditional return whose condition fails, and one of the other eight conditions
    ((∃ t, exec .rz State.reset = .next t) ∧ State.reset.flags.z = false) ∧
      ((∃ t, exec .rnz (mk [0xC0] [] [1] 0x3000 []) = .next t) ∧ (mk [0xC0] [] [1] 0x3000 []).flags.z = true) ∧
      (exec .ei State.reset = .next (State.reset.setCtl { State.reset.ctl with eiPend := true, intInhibit := true }) ∧
        { State.reset.ctl with eiPend := true, intInhibit := true } ≠ State.reset.ctl) ∧
      (exec .sim (State.reset.setReg .a 0x08#8) = .next ((State.reset.setReg .a 0x08#8).setCtl
          { State.reset.ctl with m55 := false, m65 := false, m75 := false }) ∧ State.reset.ctl.m55 ≠ false) :=
  ⟨⟨⟨_, rfl⟩, rfl⟩, ⟨⟨_, rfl⟩, rfl⟩, ⟨rfl, by decide⟩, rfl, by decide⟩

theorem test_meets_EveryStepKeepsInv : State.reset.Inv ∧ ∃ t, step State.reset = .next t :=
  ⟨by decide, step_next (by decide +kernel)⟩

theorem test_meets_EveryStepKeepsThePlatform : ∃ t, step State.reset = .next t := step_next (by decide +kernel)

/-- The default 8080A right after reset. -/
def on8080 : State := State.powerUp (Platform.standard .v8080A)

theorem test_meets_The8080HasNo8085State : on8080.platform.variant = .v8080A ∧ ∃ t, step on8080 = .next t :=
  ⟨rfl, step_next (by decide +kernel)⟩

/-- The query of a boundary input, and the state its boundary looks at. -/
def queryOf : BoundaryInput → IntQuery
  | .query q => q
  | .reset => IntQuery.idle

theorem test_meets_GatesOfTheSources : [(lines true true true true true [], IntSource.trap),
      (lines false true true true true [], .rst75), (lines false false true true true [], .rst65),
      (lines false false false true true [], .rst55), (lines false false false false true [], .intr)].all (fun p =>
    decide (acceptedSource (atBoundary p.1).afterBoundary (queryOf p.1) = some p.2)) = true := by decide

theorem test_meets_PriorityOrder :
    let s := (atBoundary (lines false true true true true [])).afterBoundary
    let u := (atBoundary (lines false false true true true [])).afterBoundary
    let q := queryOf (lines false true true true true [])
    (s.ctl.intInhibit = false ∧ u.ctl.intInhibit = false ∧ (queryOf (lines true true true true true [])).trap = true) ∧
      -- RST 7.5; in `u` its latch is 0
      (q.trap = false ∧ s.platform.variant = .v8085A ∧ s.ctl.r75 = true ∧ s.ctl.ie = true ∧ s.ctl.m75 = false) ∧
      -- RST 6.5, RST 5.5, INTR in `u`, with the lines before them low
      (¬(u.ctl.r75 = true) ∧ q.rst65 = true ∧ u.ctl.ie = true ∧ u.ctl.m65 = false) ∧
      (¬({ q with rst65 := false }.rst65 = true) ∧ q.rst55 = true ∧ u.ctl.m55 = false) ∧
      (¬({ q with rst65 := false, rst55 := false }.rst55 = true) ∧ q.intr = true) ∧ ¬(IntQuery.idle.intr = true) := by decide

theorem test_meets_VectoredEntry :
    (let b := lines true true true true true [];
      Accepts (atBoundary b) (queryOf b) .trap ∧ vectorOf (atBoundary b).platform .trap = some 0x0024#16) ∧
    (let b := lines false true true true true [];
      Accepts (atBoundary b) (queryOf b) .rst75 ∧ vectorOf (atBoundary b).platform .rst75 = some 0x003C#16) ∧
    (let b := lines false false true true true [];
      Accepts (atBoundary b) (queryOf b) .rst65 ∧ vectorOf (atBoundary b).platform .rst65 = some 0x0034#16) ∧
    (let b := lines false false false true true [];
      Accepts (atBoundary b) (queryOf b) .rst55 ∧ vectorOf (atBoundary b).platform .rst55 = some 0x002C#16) :=
  ⟨⟨⟨rfl, rfl⟩, rfl⟩, ⟨⟨rfl, rfl⟩, rfl⟩, ⟨⟨rfl, rfl⟩, rfl⟩, ⟨⟨rfl, rfl⟩, rfl⟩⟩

theorem test_meets_IntrEntry :
    (let b := lines false false false false true [0xD7#8];
      Accepts (atBoundary b) (queryOf b) .intr ∧ (queryOf b).intrBytes = [0b11#2 ++ 2#3 ++ 0b111#3] ∧
        0x0010#16 = BitVec.ofNat 16 (8 * (2#3).toNat)) ∧
    (let b := lines false false false false true [0xCD#8, 0x34#8, 0x12#8];
      Accepts (atBoundary b) (queryOf b) .intr ∧ (queryOf b).intrBytes = [0xCD#8, lowByte 0x1234#16, highByte 0x1234#16]) ∧
    (let b := lines false false false false true [];
      Accepts (atBoundary b) (queryOf b) .intr ∧ (∀ n : BitVec 3, (queryOf b).intrBytes ≠ [0b11#2 ++ n ++ 0b111#3]) ∧
        ∀ addr : Word, (queryOf b).intrBytes ≠ [0xCD#8, lowByte addr, highByte addr]) :=
  ⟨⟨⟨rfl, rfl⟩, rfl, rfl⟩, ⟨⟨rfl, rfl⟩, rfl⟩, ⟨rfl, rfl⟩, fun _ => by simp [queryOf, lines], fun _ => by simp [queryOf, lines]⟩

theorem test_meets_ReturnResumesTheInterruptedProgram :
    let b := lines false false false true false []
    let s := atBoundary b
    kindAt s.platform (s.sp - 1) = .ram ∧ kindAt s.platform (s.sp - 2) = .ram ∧ Accepts s (queryOf b) .rst55 ∧
      ∃ t, step s = .next t :=
  ⟨rfl, rfl, ⟨rfl, rfl⟩, step_next (by decide +kernel)⟩

-- the instruction after `EI` is `NOP`, `DI`, and an `EI` again
theorem test_meets_EiActsOneInstructionLate : ∀ p ∈ [(0x00#8, Instr.nop), (0xF3#8, .di), (0xFB#8, .ei)], ∃ t u,
    let s := mk [0xFB, p.1] [] [] 0x3000 [];
    Fetches s ∧ (s.afterBoundary).fetch.1 = .ei ∧ s.ctl.eiPend = false ∧ step s = .next t ∧ t.boundaryInput ≠ .reset ∧
      step t = .next u ∧ (t.afterBoundary).fetch.1 = p.2 ∧ Fetches t ∧ t.ctl.eiPend = true := by
  intro p h
  simp only [List.mem_cons, List.not_mem_nil, or_false] at h
  rcases h with rfl | rfl | rfl <;>
    exact ⟨_, _, ⟨⟨IntQuery.idle, rfl, rfl⟩, rfl⟩, rfl, rfl, rfl, by decide, rfl, rfl, ⟨⟨IntQuery.idle, rfl, rfl⟩, rfl⟩, rfl⟩

theorem test_meets_DiActsAtOnce : ∃ t,
    let s := mk [0xF3] [] [] 0x3000 [];
    Fetches s ∧ (s.afterBoundary).fetch.1 = .di ∧ step s = .next t ∧ t.boundaryInput ≠ .reset :=
  ⟨_, ⟨⟨IntQuery.idle, rfl, rfl⟩, rfl⟩, rfl, rfl, by decide⟩

theorem test_meets_HaltedStaysHalted :
    let s := { atBoundary (lines false true false false false []) with ctl := { State.reset.ctl with halted := true } }
    s.ctl.halted = true ∧ BoundaryPasses s ∧ s.boundaryInput = .query (queryOf (lines false true false false false [])) :=
  ⟨rfl, ⟨_, rfl, rfl⟩, rfl⟩

theorem test_meets_RimAfterTrap :
    let b := lines true false false false false []
    (atBoundary b).platform.variant = .v8085A ∧ Accepts (atBoundary b) (queryOf b) .trap ∧
      ∃ t, step (atBoundary b) = .next t :=
  ⟨rfl, ⟨rfl, rfl⟩, step_next (by decide +kernel)⟩

theorem test_meets_ResetEvent :
    (atBoundary .reset).boundaryInput = .reset ∧ (atBoundary .reset).platform.variant = .v8085A := ⟨rfl, rfl⟩

theorem test_meets_ResetLeavesMasksSet :
    (Platform.standard .v8085A).variant = .v8085A ∧ (atBoundary .reset).platform.variant = .v8085A ∧
      (atBoundary .reset).boundaryInput = .reset := ⟨rfl, rfl, rfl⟩

end Sys2Proof.Tests
end

section
/-! SUPPORT. `RIM` and `SIM` on each part, and what no instruction and no step changes: the platform (00_scope.md R7). -/

namespace Sys2Proof.Machine

/-! ## `RIM` and `SIM` by part (30_encoding.md R81) -/

theorem exec_rim_of_8080 {s : State} (h : s.platform.variant = .v8080A) :
    exec .rim s = .refused (.undefinedOpcode 0x20#8) := by
  simp [exec, execRim, h]

theorem exec_sim_of_8080 {s : State} (h : s.platform.variant = .v8080A) :
    exec .sim s = .refused (.undefinedOpcode 0x30#8) := by
  simp [exec, execSim, h]

theorem exec_rim_of_8085 {s : State} (h : s.platform.variant = .v8085A) :
    exec .rim s = .next ((s.rimIeBit.2.rimSample.2.setReg .a
      (rimByte s.rimIeBit.2.rimSample.1 s.ctl s.rimIeBit.1)).setCtl { s.ctl with trapRim := false }) := by
  simp [exec, execRim, h]

theorem exec_sim_of_8085 {s : State} (h : s.platform.variant = .v8085A) :
    exec .sim s = .next (s.setCtl (simCtl s.regs.a s.ctl)) := by
  simp [exec, execSim, h]

/-! ## The platform -/

@[simp] theorem onCond_platform (s : State) (k : Cond) (f : State → State) :
    (s.onCond k f).platform = if condHolds s.flags k then (f s).platform else s.platform :=
  apply_ite State.platform _ _ _

/-- No instruction changes the platform. Each meaning is made of the shared operations, and none of them does. -/
theorem exec_platform {i : Instr} {s t : State} (h : exec i s = .next t) : t.platform = s.platform := by
  cases i
  case rim =>
    cases hv : s.platform.variant with
    | v8080A => simp [exec_rim_of_8080 hv] at h
    | v8085A =>
      rw [exec_rim_of_8085 hv] at h
      obtain rfl := Host.Outcome.next.inj h
      simp
  case sim =>
    cases hv : s.platform.variant with
    | v8080A => simp [exec_sim_of_8080 hv] at h
    | v8085A =>
      rw [exec_sim_of_8085 hv] at h
      obtain rfl := Host.Outcome.next.inj h
      simp
  case undef08 | undef10 | undef18 | undef28 | undef38 | undefCB | undefD9 | undefDD | undefED | undefFD =>
    exact nomatch h
  all_goals
    obtain rfl := Host.Outcome.next.inj h
    simp

/-- No fetch, no instruction and no bookkeeping changes the platform. -/
theorem runNext_platform {s t : State} (h : s.runNext = .next t) : t.platform = s.platform := by
  obtain ⟨u, hu, rfl⟩ := runNext_cases h
  simp [exec_platform hu]

/-- No step changes the platform. -/
theorem step_platform {s t : State} (h : step s = .next t) : t.platform = s.platform := by
  rcases step_cases h with ⟨-, rfl⟩ | ⟨q, -, ⟨src, -, w, rfl⟩ | ⟨-, -, rfl⟩ | ⟨-, -, hrun⟩⟩
  · simp
  · simp
  · simp
  · simpa using runNext_platform hrun

/-- Settles O48: each of the four things a step can do keeps the platform. -/
theorem everyStepKeepsThePlatform : Obligations.EveryStepKeepsThePlatform :=
  fun _ _ h => step_platform h

end Sys2Proof.Machine
end

section
/-! SUPPORT. The interrupt, halt and serial state as a parameter: every shared operation does the same whatever `ctl` is, and
so does every instruction but `EI`, `DI`, `HLT`, `RIM` and `SIM`. -/

namespace Sys2Proof.Machine

/-! ## The shared operations under another `ctl` -/

@[simp] theorem setCtl_setCtl (s : State) (c d : Ctl) : (s.setCtl c).setCtl d = s.setCtl d := rfl
@[simp] theorem setCtl_self (s : State) : s.setCtl s.ctl = s := rfl

@[simp] theorem setCtl_setPc (s : State) (c : Ctl) (v : Word) : (s.setCtl c).setPc v = (s.setPc v).setCtl c := rfl
@[simp] theorem setCtl_setSp (s : State) (c : Ctl) (v : Word) : (s.setCtl c).setSp v = (s.setSp v).setCtl c := rfl
@[simp] theorem setCtl_setFlags (s : State) (c : Ctl) (f : Flags) :
    (s.setCtl c).setFlags f = (s.setFlags f).setCtl c := rfl
@[simp] theorem setCtl_setCy (s : State) (c : Ctl) (b : Bool) : (s.setCtl c).setCy b = (s.setCy b).setCtl c := rfl
@[simp] theorem setCtl_emit (s : State) (c : Ctl) (e : Event) : (s.setCtl c).emit e = (s.emit e).setCtl c := rfl
@[simp] theorem setCtl_countDraw (s : State) (c : Ctl) : (s.setCtl c).countDraw = s.countDraw.setCtl c := rfl

@[simp] theorem setCtl_setReg (s : State) (c : Ctl) (r : Reg) (v : Byte) :
    (s.setCtl c).setReg r v = (s.setReg r v).setCtl c := by
  cases r <;> rfl
@[simp] theorem setCtl_setPair (s : State) (c : Ctl) (rp : Pair) (v : Word) :
    (s.setCtl c).setPair rp v = (s.setPair rp v).setCtl c := by
  cases rp <;> rfl
@[simp] theorem setCtl_pair (s : State) (c : Ctl) (rp : Pair) : (s.setCtl c).pair rp = s.pair rp := pair_congr rfl rfl rp

@[simp] theorem setCtl_setAluA (s : State) (c : Ctl) (r : AluOut) : (s.setCtl c).setAluA r = (s.setAluA r).setCtl c := by
  simp [State.setAluA]
@[simp] theorem setCtl_setLogicA (s : State) (c : Ctl) (v : Byte) (ac : Bool) :
    (s.setCtl c).setLogicA v ac = (s.setLogicA v ac).setCtl c := by
  simp [State.setLogicA]
@[simp] theorem setCtl_rotA (s : State) (c : Ctl) (v : Byte) (b : Bool) :
    (s.setCtl c).rotA v b = (s.rotA v b).setCtl c := by
  simp [State.rotA]
@[simp] theorem setCtl_cmpA (s : State) (c : Ctl) (v : Byte) : (s.setCtl c).cmpA v = (s.cmpA v).setCtl c := rfl

@[simp] theorem setCtl_busDraw (s : State) (c : Ctl) (a : Word) :
    (s.setCtl c).busDraw a = ((s.busDraw a).1, (s.busDraw a).2.setCtl c) := by
  cases h : s.env.bus with
  | nil => simp [State.busDraw, h]
  | cons v rest => simp only [State.busDraw, setCtl_env, h]; rfl

@[simp] theorem setCtl_memRead (s : State) (c : Ctl) (a : Word) :
    (s.setCtl c).memRead a = (s.byteAt a, (s.memRead a).2.setCtl c) := by
  cases h : kindAt s.platform a <;> simp [State.byteAt, State.memRead, h]
@[simp] theorem setCtl_byteAt (s : State) (c : Ctl) (a : Word) : (s.setCtl c).byteAt a = s.byteAt a := by
  rw [← memRead_fst, setCtl_memRead]
@[simp] theorem setCtl_memRead2 (s : State) (c : Ctl) (a : Word) :
    (s.setCtl c).memRead2 a = ((s.memRead2 a).1, (s.memRead2 a).2.setCtl c) := by
  simp [State.memRead2]

@[simp] theorem setCtl_memWrite (s : State) (c : Ctl) (a : Word) (v : Byte) :
    (s.setCtl c).memWrite a v = (s.memWrite a v).setCtl c := by
  simp only [memWrite_state, setCtl_platform, setCtl_mem, setCtl_env]
  rfl
@[simp] theorem setCtl_memWrite2 (s : State) (c : Ctl) (a v : Word) :
    (s.setCtl c).memWrite2 a v = (s.memWrite2 a v).setCtl c := by
  simp [State.memWrite2]

@[simp] theorem setCtl_ioRead (s : State) (c : Ctl) (port : Byte) :
    (s.setCtl c).ioRead port = ((s.ioRead port).1, (s.ioRead port).2.setCtl c) := by
  cases h : s.env.io with
  | nil => simp [State.ioRead, h]
  | cons v rest => simp only [State.ioRead, setCtl_emit, setCtl_env, emit_env, h]; rfl

@[simp] theorem setCtl_push16 (s : State) (c : Ctl) (v : Word) : (s.setCtl c).push16 v = (s.push16 v).setCtl c := by
  simp [State.push16]
@[simp] theorem setCtl_pop16 (s : State) (c : Ctl) : (s.setCtl c).pop16 = (s.pop16.1, s.pop16.2.setCtl c) := by
  simp [State.pop16]
@[simp] theorem setCtl_callTo (s : State) (c : Ctl) (w : Word) : (s.setCtl c).callTo w = (s.callTo w).setCtl c := by
  simp [State.callTo]
@[simp] theorem setCtl_returnFrom (s : State) (c : Ctl) : (s.setCtl c).returnFrom = s.returnFrom.setCtl c := by
  simp [State.returnFrom]

/-- A conditional operation does the same under another `ctl` if its taken branch does. -/
theorem setCtl_onCond (s : State) (c : Ctl) (k : Cond) {f : State → State} (hf : f (s.setCtl c) = (f s).setCtl c) :
    (s.setCtl c).onCond k f = (s.onCond k f).setCtl c := by
  rcases onCond_cases s k f with ⟨h, e⟩ | ⟨h, e⟩ <;> simp [State.onCond, h, hf]

/-! ## Instructions under another `ctl` -/

/-- The instructions that read or write the interrupt, halt and serial state (44_stack_io_control.md R209 to R214). -/
def usesCtl : Instr → Bool
  | .ei | .di | .hlt | .rim | .sim => true
  | _ => false

/-- Every other instruction does the same whatever that state is, and passes it on. -/
theorem exec_setCtl {i : Instr} {s t : State} (hi : usesCtl i = false) (h : exec i s = .next t) (c : Ctl) :
    exec i (s.setCtl c) = .next (t.setCtl c) := by
  cases i
  case ei | di | hlt | rim | sim => cases hi
  case undef08 | undef10 | undef18 | undef28 | undef38 | undefCB | undefD9 | undefDD | undefED | undefFD =>
    exact nomatch h
  all_goals
    obtain rfl := Host.Outcome.next.inj h
    refine congrArg Host.Outcome.next ?_
  case jnz | jz | jnc | jc | jpo | jpe | jp | jm => exact setCtl_onCond s c _ rfl
  case cnz | cz | cnc | cc | cpo | cpe | cp | cm => exact setCtl_onCond s c _ (setCtl_callTo s c _)
  case rnz | rz | rnc | rc | rpo | rpe | rp | rm => exact setCtl_onCond s c _ (setCtl_returnFrom s c)
  all_goals simp

/-- So it leaves that state as it was. -/
theorem exec_ctl {i : Instr} {s t : State} (hi : usesCtl i = false) (h : exec i s = .next t) : t.ctl = s.ctl := by
  have h' := exec_setCtl hi h s.ctl
  rw [setCtl_self, h] at h'
  rw [Host.Outcome.next.inj h']
  rfl

/-- A fetch does the same under another `ctl`. -/
@[simp] theorem setCtl_fetch (s : State) (c : Ctl) : (s.setCtl c).fetch = (s.fetch.1, s.fetch.2.setCtl c) := by
  have hskip : ∀ i, skipsByte3 (s.setCtl c) i = skipsByte3 s i := fun _ => rfl
  simp only [State.fetch, setCtl_memRead, setCtl_pc, memRead_fst, hskip]
  split
  · simp
  · simp
  · split <;> simp

end Sys2Proof.Machine
end

section
/-! SUPPORT. On the 8080A the state that only the 8085A has is neither read nor written (00_scope.md R3, 60_exceptions.md
R249): a step commutes with writing any values there. -/

namespace Sys2Proof.Machine

/-! ## The outcomes of a step, each from its condition -/

/-- A reset the environment asserts is the whole step. -/
theorem step_of_reset {s : State} (h : s.boundaryInput = .reset) : step s = .next s.useBoundaryInput.resetEvent := by
  simp [step, h]

/-- A halted step that accepts nothing does nothing after its boundary. -/
theorem step_of_halted {s : State} (hb : BoundaryPasses s) (hh : s.ctl.halted = true) : step s = .next s.afterBoundary := by
  obtain ⟨q, hq, ha⟩ := hb
  rw [afterBoundary_of_query hq] at ha ⊢
  simp [step, hq, ha, hh]

/-- The converse of `runNext_cases`. -/
theorem runNext_of_exec {s u : State} (h : exec s.fetch.1 s.fetch.2 = .next u) :
    s.runNext = .next ((u.enableBookkeeping s.fetch.1 s.ctl.eiPend).countTStates s.fetch.1 s) := by
  simp [State.runNext, h]

/-! ## Writing the state of the 8085A alone -/

/-- `c` with the fields that only the 8085A has taken from `m` (10_state.md R31 to R34). -/
def Ctl.with85 (c m : Ctl) : Ctl :=
  { m with ie := c.ie, eiPend := c.eiPend, intInhibit := c.intInhibit, halted := c.halted }

/-- The state with the fields that only the 8085A has taken from `m`. -/
def State.put85 (s : State) (m : Ctl) : State := s.setCtl (s.ctl.with85 m)

section
variable (s : State) (m : Ctl)

@[simp] theorem put85_self : s.put85 s.ctl = s := rfl
@[simp] theorem put85_platform : (s.put85 m).platform = s.platform := rfl
@[simp] theorem put85_boundaryInput : (s.put85 m).boundaryInput = s.boundaryInput := rfl
@[simp] theorem put85_useBoundaryInput : (s.put85 m).useBoundaryInput = s.useBoundaryInput.put85 m := rfl
@[simp] theorem put85_ie : (s.put85 m).ctl.ie = s.ctl.ie := rfl
@[simp] theorem put85_eiPend : (s.put85 m).ctl.eiPend = s.ctl.eiPend := rfl
@[simp] theorem put85_intInhibit : (s.put85 m).ctl.intInhibit = s.ctl.intInhibit := rfl

@[simp] theorem put85_fetch : (s.put85 m).fetch = (s.fetch.1, s.fetch.2.put85 m) := by
  simp [State.put85]

/-- The bookkeeping and the observer see none of these fields. -/
theorem put85_bookkeeping (u : State) (i : Instr) (e : Bool) :
    ((u.put85 m).enableBookkeeping i e).countTStates i (s.put85 m) =
      ((u.enableBookkeeping i e).countTStates i s).put85 m := rfl

end

/-! ## Each part of a step on the 8080A -/

section
variable {s : State} (hv : s.platform.variant = .v8080A) (m : Ctl)
include hv

/-- An instruction of the 8080A neither reads nor writes these fields. -/
theorem exec_put85 {i : Instr} {t : State} (h : exec i s = .next t) : exec i (s.put85 m) = .next (t.put85 m) := by
  cases hi : usesCtl i with
  | false => rw [State.put85, exec_setCtl hi h, State.put85, exec_ctl hi h]
  | true =>
    cases i
    case rim => simp [exec_rim_of_8080 hv] at h
    case sim => simp [exec_sim_of_8080 hv] at h
    case ei | di | hlt =>
      obtain rfl := Host.Outcome.next.inj h
      rfl
    all_goals cases hi

/-- Nor does fetching and running the instruction at PC. -/
theorem runNext_put85 {t : State} (h : s.runNext = .next t) : (s.put85 m).runNext = .next (t.put85 m) := by
  obtain ⟨u, hu, rfl⟩ := runNext_cases h
  have hu' : exec (s.put85 m).fetch.1 (s.put85 m).fetch.2 = .next (u.put85 m) := by
    rw [put85_fetch]
    exact exec_put85 (by rw [fetch_platform, hv]) m hu
  rw [runNext_of_exec hu', put85_fetch, put85_eiPend, put85_bookkeeping]

/-- A reset event leaves them as they are on the 8080A. -/
theorem resetEvent_put85 : (s.put85 m).resetEvent = (s.resetEvent).put85 m := by
  simp only [State.resetEvent, put85_platform, hv]
  rfl

/-- The query of an 8080A asserts INTR at most (R233). -/
theorem query_of_8080 {q : IntQuery} (h : s.boundaryInput = .query q) :
    q.trap = false ∧ q.rst75Edge = false ∧ q.rst65 = false ∧ q.rst55 = false := by
  simp only [State.boundaryInput] at h
  split at h
  · obtain rfl := BoundaryInput.query.inj h
    exact ⟨rfl, rfl, rfl, rfl⟩
  · cases h
  · obtain rfl := BoundaryInput.query.inj h
    simp [IntQuery.forVariant, hv]

/-- So its boundary latches nothing. -/
theorem afterBoundary_put85 : (s.put85 m).afterBoundary = s.afterBoundary.put85 m := by
  cases hb : s.boundaryInput with
  | reset => simp [State.afterBoundary, hb]
  | query q =>
    obtain ⟨-, hedge, -, -⟩ := query_of_8080 hv hb
    rw [afterBoundary_of_query hb, afterBoundary_of_query (s := s.put85 m) hb]
    simp only [State.latchEdge, hedge, Bool.or_false]
    rfl

/-- And INTR is the only source it can accept, by IE and IntInhibit alone (R232, R249). -/
theorem acceptedSource_of_8080 {q : IntQuery} (h : s.boundaryInput = .query q) :
    acceptedSource s.afterBoundary q =
      if s.ctl.intInhibit then none else if q.intr && s.ctl.ie then some .intr else none := by
  obtain ⟨htrap, -, h65, h55⟩ := query_of_8080 hv h
  have hgate : ∀ src, gateOpen s.afterBoundary q src = (decide (src = .intr) && (q.intr && s.ctl.ie)) := by
    intro src
    cases src <;> simp [gateOpen, afterBoundary_ctl h, hv, htrap, h65, h55]
  simp only [acceptedSource, afterBoundary_ctl h, List.find?, hgate]
  cases q.intr && s.ctl.ie <;> rfl

end

/-- An INTR entry neither reads nor writes these fields. -/
theorem enterInterrupt_intr_put85 {s t : State} {q : IntQuery} (m : Ctl) (h : s.enterInterrupt q .intr = .next t) :
    (s.put85 m).enterInterrupt q .intr = .next (t.put85 m) := by
  simp only [State.enterInterrupt, vectorOf] at h ⊢
  cases ha : acknowledgeTarget q.intrBytes with
  | none => simp [ha] at h
  | some w =>
    rw [ha] at h
    obtain rfl := Host.Outcome.next.inj h
    simp only [State.put85, State.enterAt, setCtl_emit, setCtl_setCtl, setCtl_callTo]
    rfl

/-- On the 8080A a step commutes with writing any values into the fields that only the 8085A has. -/
theorem step_put85 {s t : State} (hv : s.platform.variant = .v8080A) (m : Ctl) (h : step s = .next t) :
    step (s.put85 m) = .next (t.put85 m) := by
  have hafter := afterBoundary_put85 hv m
  have hv' : s.afterBoundary.platform.variant = .v8080A := by rw [afterBoundary_platform, hv]
  cases hb : s.boundaryInput with
  | reset =>
    rw [step_of_reset hb] at h
    obtain rfl := Host.Outcome.next.inj h
    rw [step_of_reset (s := s.put85 m) hb, put85_useBoundaryInput, resetEvent_put85 (s := s.useBoundaryInput) hv]
  | query q =>
    have hacc : acceptedSource (s.put85 m).afterBoundary q = acceptedSource s.afterBoundary q := by
      rw [acceptedSource_of_8080 hv hb, acceptedSource_of_8080 (s := s.put85 m) hv hb, put85_intInhibit,
        put85_ie]
    cases ha : acceptedSource s.afterBoundary q with
    | some src =>
      obtain rfl : src = .intr := by
        rw [acceptedSource_of_8080 hv hb] at ha
        split_ifs at ha
        exact (Option.some.inj ha).symm
      rw [step_of_accepts ⟨hb, ha⟩] at h
      rw [step_of_accepts (s := s.put85 m) ⟨hb, hacc.trans ha⟩, hafter]
      exact enterInterrupt_intr_put85 m h
    | none =>
      cases hh : s.ctl.halted with
      | true =>
        rw [step_of_halted ⟨q, hb, ha⟩ hh] at h
        obtain rfl := Host.Outcome.next.inj h
        rw [step_of_halted (s := s.put85 m) ⟨q, hb, hacc.trans ha⟩ hh, hafter]
      | false =>
        rw [step_of_fetches ⟨⟨q, hb, ha⟩, hh⟩] at h
        rw [step_of_fetches (s := s.put85 m) ⟨⟨q, hb, hacc.trans ha⟩, hh⟩, hafter]
        exact runNext_put85 hv' m h

/-- Settles O49. That the fields are not read is `step_put85`; that they are not written is the same statement for the
values they already have. -/
theorem the8080HasNo8085State : Obligations.The8080HasNo8085State := by
  intro s m55 m65 m75 r75 sod ieTrap trapRim hv
  refine ⟨fun t h => ?_, fun t h => ?_⟩
  · exact step_put85 hv { s.ctl with m55, m65, m75, r75, sod, ieTrap, trapRim } h
  · have h' := step_put85 hv s.ctl h
    rw [put85_self, h] at h'
    rw [Host.Outcome.next.inj h']
    exact ⟨rfl, rfl, rfl, rfl, rfl, rfl, rfl⟩

end Sys2Proof.Machine
end

section
/-! SUPPORT. The decoder's layouts, the bytes a fetch reads, and a step as the run of the instruction those bytes are
(00_scope.md R12; 43_branch.md R183, R185). -/

namespace Sys2Proof

/-! ## Decoding (30_encoding.md R76, R87) -/

/-- Everything `decode` can answer where it answers an instruction: the three lengths. -/
theorem decode_cases {bs rest : List Byte} {i : Instr} (h : decode bs = .ok (i, rest)) :
    (∃ op, bs = op :: rest ∧ layoutOf op = .one i) ∨
      (∃ op b k, bs = op :: b :: rest ∧ layoutOf op = .two k ∧ i = k b) ∨
      (∃ op lo hi k, bs = op :: lo :: hi :: rest ∧ layoutOf op = .three k ∧ i = k (wordOf hi lo)) := by
  cases bs with
  | nil => cases h
  | cons op tail =>
    simp only [decode] at h
    split at h
    case h_1 j hl =>
      obtain ⟨rfl, rfl⟩ := Prod.mk.inj (Except.ok.inj h)
      exact .inl ⟨op, rfl, hl⟩
    case h_2 k b tail' hl =>
      obtain ⟨rfl, rfl⟩ := Prod.mk.inj (Except.ok.inj h)
      exact .inr (.inl ⟨op, b, k, rfl, hl, rfl⟩)
    case h_3 k lo hi tail' hl =>
      obtain ⟨rfl, rfl⟩ := Prod.mk.inj (Except.ok.inj h)
      exact .inr (.inr ⟨op, lo, hi, k, rfl, hl, rfl⟩)
    case h_4 => cases h

theorem decode_of_one {op : Byte} {i : Instr} (h : layoutOf op = .one i) (rest : List Byte) :
    decode (op :: rest) = .ok (i, rest) := by
  simp [decode, h]

theorem decode_of_two {op : Byte} {k : Byte → Instr} (h : layoutOf op = .two k) (b : Byte) (rest : List Byte) :
    decode (op :: b :: rest) = .ok (k b, rest) := by
  simp [decode, h]

theorem decode_of_three {op : Byte} {k : Word → Instr} (h : layoutOf op = .three k) (lo hi : Byte) (rest : List Byte) :
    decode (op :: lo :: hi :: rest) = .ok (k (wordOf hi lo), rest) := by
  simp [decode, h]

end Sys2Proof

namespace Sys2Proof.Machine

/-- All that the step itself, and not `exec`, takes from an instruction: its length, its condition, whether it is `EI` or `DI`,
and its T states. -/
structure StepRow where
  length : Nat
  cond : Option Cond
  ei : Bool
  di : Bool
  tStates : Variant → Bool → Option Nat

/-- That of an instruction. -/
def stepRow (i : Instr) : StepRow where
  length := (encode i).length
  cond := condOfInstr i
  ei := isEi i
  di := isDi i
  tStates := fun v taken => tStatesOf v taken i

/-- What byte 1 decides by itself (30_encoding.md R70, R78): the length, and, of an instruction with an address, all of
`stepRow`. -/
inductive LayoutFits : Layout → Prop where
  | one {i : Instr} (len : (encode i).length = 1) : LayoutFits (.one i)
  | two {k : Byte → Instr} (len : ∀ b, (encode (k b)).length = 2) : LayoutFits (.two k)
  | three {k : Word → Instr} (len : ∀ w, (encode (k w)).length = 3) (row : ∀ w w', stepRow (k w) = stepRow (k w')) :
      LayoutFits (.three k)

theorem layoutFits_quadrant0 (op : Byte) : LayoutFits (layoutQuadrant0 op) := by
  unfold layoutQuadrant0
  repeat' split
  all_goals constructor
  all_goals
    intros
    rfl

theorem layoutFits_quadrant1 (op : Byte) : LayoutFits (layoutQuadrant1 op) := by
  unfold layoutQuadrant1
  split <;> exact .one rfl

theorem layoutFits_quadrant2 (op : Byte) : LayoutFits (layoutQuadrant2 op) := by
  unfold layoutQuadrant2
  split <;> exact .one rfl

theorem layoutFits_quadrant3 (op : Byte) : LayoutFits (layoutQuadrant3 op) := by
  unfold layoutQuadrant3
  repeat' split
  all_goals constructor
  all_goals
    intros
    rfl

theorem layoutFits (op : Byte) : LayoutFits (layoutOf op) := by
  unfold layoutOf
  split
  · exact layoutFits_quadrant0 op
  · exact layoutFits_quadrant1 op
  · exact layoutFits_quadrant2 op
  · exact layoutFits_quadrant3 op

theorem length_of_one {op : Byte} {i : Instr} (h : layoutOf op = .one i) : (encode i).length = 1 := by
  cases h ▸ layoutFits op with
  | one len => exact len

theorem length_of_two {op : Byte} {k : Byte → Instr} (h : layoutOf op = .two k) (b : Byte) : (encode (k b)).length = 2 := by
  cases h ▸ layoutFits op with
  | two len => exact len b

theorem length_of_three {op : Byte} {k : Word → Instr} (h : layoutOf op = .three k) (w : Word) :
    (encode (k w)).length = 3 := by
  cases h ▸ layoutFits op with
  | three len _ => exact len w

theorem stepRow_of_three {op : Byte} {k : Word → Instr} (h : layoutOf op = .three k) (w w' : Word) :
    stepRow (k w) = stepRow (k w') := by
  cases h ▸ layoutFits op with
  | three _ row => exact row w w'

/-- No instruction is longer than three bytes. -/
theorem length_of_decode {bs rest : List Byte} {i : Instr} (h : decode bs = .ok (i, rest)) :
    bs.length = (encode i).length + rest.length ∧ (encode i).length ≤ 3 := by
  rcases decode_cases h with ⟨op, rfl, hl⟩ | ⟨op, b, k, rfl, hl, rfl⟩ | ⟨op, lo, hi, k, rfl, hl, rfl⟩
  · simp only [length_of_one hl, List.length_cons]; omega
  · simp only [length_of_two hl, List.length_cons]; omega
  · simp only [length_of_three hl, List.length_cons]; omega

/-- Only the bytes of the instruction itself count. -/
theorem decode_take {bs rest : List Byte} {i : Instr} (h : decode bs = .ok (i, rest)) :
    decode (bs.take (encode i).length) = .ok (i, []) := by
  rcases decode_cases h with ⟨op, rfl, hl⟩ | ⟨op, b, k, rfl, hl, rfl⟩ | ⟨op, lo, hi, k, rfl, hl, rfl⟩
  · rw [length_of_one hl]; exact decode_of_one hl []
  · rw [length_of_two hl]; exact decode_of_two hl b []
  · rw [length_of_three hl]; exact decode_of_three hl lo hi []

/-! ## The fetch, by the layout of byte 1 -/

theorem fetch_of_one {s : State} {i : Instr} (h : layoutOf (s.byteAt s.pc) = .one i) :
    s.fetch = (i, (s.memRead s.pc).2.setPc (s.pc + 1)) := by
  simp [State.fetch, h]

theorem fetch_of_two {s : State} {k : Byte → Instr} (h : layoutOf (s.byteAt s.pc) = .two k) :
    s.fetch = (k ((s.memRead s.pc).2.byteAt (s.pc + 1)), ((s.memRead s.pc).2.memRead (s.pc + 1)).2.setPc (s.pc + 2)) := by
  simp [State.fetch, h]

theorem fetch_of_three_skip {s : State} {k : Word → Instr} (h : layoutOf (s.byteAt s.pc) = .three k)
    (hs : skipsByte3 s (k 0x0000#16) = true) :
    s.fetch = (k (wordOf 0x00#8 ((s.memRead s.pc).2.byteAt (s.pc + 1))),
      ((s.memRead s.pc).2.memRead (s.pc + 1)).2.setPc (s.pc + 3)) := by
  simp [State.fetch, h, hs]

theorem fetch_of_three_read {s : State} {k : Word → Instr} (h : layoutOf (s.byteAt s.pc) = .three k)
    (hs : skipsByte3 s (k 0x0000#16) = false) :
    s.fetch = (k (wordOf (((s.memRead s.pc).2.memRead (s.pc + 1)).2.byteAt (s.pc + 2))
        ((s.memRead s.pc).2.byteAt (s.pc + 1))),
      (((s.memRead s.pc).2.memRead (s.pc + 1)).2.memRead (s.pc + 2)).2.setPc (s.pc + 3)) := by
  simp [State.fetch, h, hs]

/-- Byte 3 is left unread exactly where an 8085A does not take the jump or call. -/
theorem skipsByte3_iff (s : State) (i : Instr) :
    skipsByte3 s i = true ↔ s.platform.variant = .v8085A ∧ isTaken s.flags i = false := by
  cases hv : s.platform.variant <;> cases hc : condOfInstr i <;> simp [skipsByte3, isTaken, hv, hc]

/-! ## A conditional instruction that is not taken (43_branch.md R181) -/

/-- It does nothing, whatever its address. -/
theorem exec_of_not_taken {i : Instr} {s : State} (h : isTaken s.flags i = false) : exec i s = .next s := by
  have hcond : ∀ {k : Cond} {f : State → State}, condHolds s.flags k = false → s.onCond k f = s := fun hk => by
    simp [State.onCond, hk]
  cases i
  case jnz | jz | jnc | jc | jpo | jpe | jp | jm | cnz | cz | cnc | cc | cpo | cpe | cp | cm | rnz | rz | rnc | rc | rpo |
      rpe | rp | rm =>
    exact congrArg Host.Outcome.next (hcond h)
  all_goals cases h

theorem isTaken_congr {i j : Instr} (h : stepRow i = stepRow j) (f : Flags) : isTaken f i = isTaken f j := by
  have hcond : condOfInstr i = condOfInstr j := congrArg StepRow.cond h
  simp only [isTaken, hcond]

/-- The step does the same for two instructions that differ in their address alone and are not taken. -/
theorem runsOn_congr {s u : State} {i j : Instr} (hrow : stepRow i = stepRow j) (hflags : u.flags = s.flags)
    (hi : isTaken s.flags i = false) : runsOn s i u = runsOn s j u := by
  have hj : isTaken s.flags j = false := isTaken_congr hrow s.flags ▸ hi
  have hlen : (encode i).length = (encode j).length := congrArg StepRow.length hrow
  have hei : isEi i = isEi j := congrArg StepRow.ei hrow
  have hdi : isDi i = isDi j := congrArg StepRow.di hrow
  have ht : ∀ v taken, tStatesOf v taken i = tStatesOf v taken j := congrFun₂ (congrArg StepRow.tStates hrow)
  have hrun : ∀ l, isTaken s.flags l = false → ∀ v, exec l (u.setPc v) = .next (u.setPc v) :=
    fun l hl v => exec_of_not_taken (by rw [setPc_flags, hflags, hl])
  simp only [runsOn, hrun i hi, hrun j hj, hlen, State.enableBookkeeping, hei, hdi, State.countTStates, afterBoundary_flags,
    hi, hj, ht]

/-! ## The bytes a fetch reads -/

theorem readBytes_one (s : State) (a : Word) : s.readBytes a 1 = ([s.byteAt a], (s.memRead a).2) := rfl

theorem readBytes_two (s : State) (a : Word) :
    s.readBytes a 2 = ([s.byteAt a, (s.memRead a).2.byteAt (a + 1)], ((s.memRead a).2.memRead (a + 1)).2) := rfl

theorem readBytes_three (s : State) (a : Word) :
    s.readBytes a 3 =
      ([s.byteAt a, (s.memRead a).2.byteAt (a + 1), ((s.memRead a).2.memRead (a + 1)).2.byteAt (a + 2)],
        (((s.memRead a).2.memRead (a + 1)).2.memRead (a + 2)).2) := by
  have ha : a + 2 = a + 1 + 1 := by bv_omega
  rw [ha]
  rfl

@[simp] theorem readBytes_flags (s : State) (a : Word) (n : Nat) : (s.readBytes a n).2.flags = s.flags := by
  induction n generalizing s a with
  | zero => rfl
  | succ n ih => simp [State.readBytes, ih]

/-- Where memory answers, reading bytes changes nothing. -/
theorem readBytes_of_plain {s : State} {a : Word} {n : Nat} (h : ∀ k, k < n → PlainAt s (a + BitVec.ofNat 16 k)) :
    s.readBytes a n = ((List.range n).map (fun k => s.byteAt (a + BitVec.ofNat 16 k)), s) := by
  induction n generalizing a with
  | zero => rfl
  | succ n ih =>
    have hnext : ∀ k, a + BitVec.ofNat 16 (k + 1) = a + 1 + BitVec.ofNat 16 k := fun k => by
      rw [BitVec.ofNat_add, BitVec.add_assoc, BitVec.add_comm (BitVec.ofNat 16 k)]
      rfl
    have hfirst : s.memRead a = (s.byteAt a, s) := memRead_of_plain s a (by simpa using h 0 (by omega))
    have hrest := ih (a := a + 1) fun k hk => hnext k ▸ h (k + 1) (by omega)
    simp only [State.readBytes, hfirst, hrest, ← hnext, List.range_succ_eq_map, List.map_cons, List.map_map,
      Function.comp_def, BitVec.add_zero]

/-- The byte a location delivers depends on the platform, RAM and the environment's answers for the bus alone. -/
theorem byteAt_congr {s t : State} (hp : t.platform = s.platform) (hm : t.mem = s.mem) (hb : t.env.bus = s.env.bus)
    (hd : t.env.draws = s.env.draws) (a : Word) : t.byteAt a = s.byteAt a := by
  cases h : kindAt s.platform a <;> cases hbus : s.env.bus <;>
    simp [State.byteAt, State.memRead, State.busDraw, hp, h, hm, hb, hd, hbus]

@[simp] theorem afterBoundary_byteAt (s : State) (a : Word) : s.afterBoundary.byteAt a = s.byteAt a :=
  byteAt_congr (by simp) (by simp) (by simp) (by simp) a

theorem bytesRead_le (s : State) (i : Instr) : bytesRead s i ≤ (encode i).length := by
  unfold bytesRead
  split <;> omega

/-- The boundary does not change how many bytes are read. -/
theorem bytesRead_afterBoundary (s : State) (i : Instr) : bytesRead s.afterBoundary i = bytesRead s i := by
  simp [bytesRead]

/-! ## The fetch delivers the instruction of the bytes read -/

/-- The fetch reads the bytes `bytesRead` counts and sets PC past the instruction. What it delivers is the instruction these
bytes decode to, whatever follows them where byte 3 is not read: then it may have another address, and is not taken. -/
theorem fetch_of_readBytes {s u : State} {i : Instr} {bs rest : List Byte} (h : s.readBytes s.pc (bytesRead s i) = (bs, u))
    (hd : decode (bs ++ rest) = .ok (i, [])) :
    ∃ j, s.fetch = (j, u.setPc (s.pc + BitVec.ofNat 16 (encode i).length)) ∧
      (j = i ∨ stepRow j = stepRow i ∧ isTaken s.flags j = false) := by
  rcases decode_cases hd with ⟨op, hbs, hl⟩ | ⟨op, b, k, hbs, hl, rfl⟩ | ⟨op, lo, hi, k, hbs, hl, rfl⟩
  · have hn : bytesRead s i = 1 := by simp [bytesRead, length_of_one hl]
    rw [hn, readBytes_one] at h
    obtain ⟨rfl, rfl⟩ := Prod.mk.inj h
    obtain ⟨rfl, -⟩ : s.byteAt s.pc = op ∧ rest = [] := by simpa using hbs
    exact ⟨i, by rw [fetch_of_one hl, length_of_one hl]; rfl, .inl rfl⟩
  · have hn : bytesRead s (k b) = 2 := by simp [bytesRead, length_of_two hl]
    rw [hn, readBytes_two] at h
    obtain ⟨rfl, rfl⟩ := Prod.mk.inj h
    obtain ⟨rfl, rfl, -⟩ : s.byteAt s.pc = op ∧ (s.memRead s.pc).2.byteAt (s.pc + 1) = b ∧ rest = [] := by
      simpa using hbs
    exact ⟨_, by rw [fetch_of_two hl, length_of_two hl]; rfl, .inl rfl⟩
  · have hlen : (encode (k (wordOf hi lo))).length = 3 := length_of_three hl _
    have hskip : skipsByte3 s (k 0x0000#16) = true ↔
        s.platform.variant = .v8085A ∧ isTaken s.flags (k (wordOf hi lo)) = false := by
      rw [skipsByte3_iff, isTaken_congr (stepRow_of_three hl _ _)]
    cases hs : skipsByte3 s (k 0x0000#16) with
    | true =>
      obtain ⟨hv, ht⟩ := hskip.1 hs
      have hn : bytesRead s (k (wordOf hi lo)) = 2 := by simp [bytesRead, hv, ht, hlen]
      rw [hn, readBytes_two] at h
      obtain ⟨rfl, rfl⟩ := Prod.mk.inj h
      obtain rfl : s.byteAt s.pc = op := (List.cons.inj hbs).1
      have hrow := stepRow_of_three hl (wordOf 0x00#8 ((s.memRead s.pc).2.byteAt (s.pc + 1))) (wordOf hi lo)
      refine ⟨_, by rw [fetch_of_three_skip hl hs, hlen]; rfl, .inr ⟨hrow, ?_⟩⟩
      rw [isTaken_congr hrow, ht]
    | false =>
      have hn : bytesRead s (k (wordOf hi lo)) = 3 := by
        rw [bytesRead, if_neg fun hc => ?_, hlen]
        simp [hskip.2 ⟨hc.1, hc.2.1⟩] at hs
      rw [hn, readBytes_three] at h
      obtain ⟨rfl, rfl⟩ := Prod.mk.inj h
      obtain ⟨rfl, rfl, rfl, -⟩ : s.byteAt s.pc = op ∧ (s.memRead s.pc).2.byteAt (s.pc + 1) = lo ∧
          ((s.memRead s.pc).2.memRead (s.pc + 1)).2.byteAt (s.pc + 2) = hi ∧ rest = [] := by
        simpa using hbs
      exact ⟨_, by rw [fetch_of_three_read hl hs, hlen]; rfl, .inl rfl⟩

/-- The run of a state whose boundary has passed, from what its fetch delivers. -/
theorem runNext_of_fetch {s u : State} {i : Instr}
    (h : s.afterBoundary.fetch = (i, u.setPc (s.pc + BitVec.ofNat 16 (encode i).length))) :
    s.afterBoundary.runNext = runsOn s i u := by
  cases he : exec i (u.setPc (s.pc + BitVec.ofNat 16 (encode i).length)) <;>
    simp only [State.runNext, runsOn, h, he, afterBoundary_eiPend]

/-- Wherever the bytes lie, the step runs the instruction they decode to. -/
theorem step_of_readBytes {s u : State} {i : Instr} {bs rest : List Byte} (hf : Fetches s)
    (h : s.afterBoundary.readBytes s.pc (bytesRead s i) = (bs, u)) (hd : decode (bs ++ rest) = .ok (i, [])) :
    step s = runsOn s i u := by
  have hflags : u.flags = s.flags := by
    have hu := readBytes_flags s.afterBoundary s.pc (bytesRead s i)
    rwa [h, afterBoundary_flags] at hu
  rw [← bytesRead_afterBoundary, ← afterBoundary_pc s] at h
  obtain ⟨j, hfetch, rfl | ⟨hrow, hnot⟩⟩ := fetch_of_readBytes h hd
  · rw [afterBoundary_pc] at hfetch
    rw [step_of_fetches hf, runNext_of_fetch hfetch]
  · have hlen : (encode j).length = (encode i).length := congrArg StepRow.length hrow
    rw [afterBoundary_pc, ← hlen] at hfetch
    rw [afterBoundary_flags] at hnot
    rw [step_of_fetches hf, runNext_of_fetch hfetch, runsOn_congr hrow hflags hnot]

/-- Where the bytes of the instruction are RAM or ROM, reading them changes nothing. -/
theorem step_of_plain {s : State} {i : Instr} {rest : List Byte} (hf : Fetches s)
    (hplain : ∀ k, k < (encode i).length → PlainAt s (s.pc + BitVec.ofNat 16 k))
    (hd : decode [s.byteAt s.pc, s.byteAt (s.pc + 1), s.byteAt (s.pc + 2)] = .ok (i, rest)) :
    step s = runsOn s i s.afterBoundary := by
  have hle := bytesRead_le s i
  have hbytes : [s.byteAt s.pc, s.byteAt (s.pc + 1), s.byteAt (s.pc + 2)] =
      (List.range 3).map (fun k => s.byteAt (s.pc + BitVec.ofNat 16 k)) := by simp [List.range_succ]
  rw [hbytes] at hd
  have hread : s.afterBoundary.readBytes s.pc (bytesRead s i) =
      (((List.range 3).map (fun k => s.byteAt (s.pc + BitVec.ofNat 16 k))).take (bytesRead s i), s.afterBoundary) := by
    rw [readBytes_of_plain fun k hk => by simpa [PlainAt] using hplain k (by omega)]
    have h3 := (length_of_decode hd).2
    simp [← List.map_take, List.take_range, Nat.min_eq_left (Nat.le_trans hle h3)]
  refine step_of_readBytes hf hread (rest := (((List.range 3).map (fun k => s.byteAt (s.pc + BitVec.ofNat 16 k))).take
    (encode i).length).drop (bytesRead s i)) ?_
  have htake := decode_take hd
  rwa [← List.take_append_drop (bytesRead s i) (List.take _ _), List.take_take, Nat.min_eq_left hle] at htake

/-- Settles O6, its first part by `step_of_readBytes`, its second by `step_of_plain`. -/
theorem stepRunsTheDecodedInstruction : Obligations.StepRunsTheDecodedInstruction :=
  fun _ _ _ hf => ⟨fun _ _ h hd => step_of_readBytes hf h hd, fun hplain hd => step_of_plain hf hplain hd⟩

end Sys2Proof.Machine
end

section
/-! SUPPORT. Which instructions write the flags, SP and the control state (10_state.md R24, R29 to R37), what AC is after a
subtraction (D3), and the invariant at power-up (R39). -/

namespace Sys2Proof.Machine

/-! ## `RIM` and `SIM`, from an answer -/

/-- Where `RIM` answers a next state, it is the one of the 8085A. -/
theorem eq_of_exec_rim {s t : State} (h : exec .rim s = .next t) :
    t = (s.rimIeBit.2.rimSample.2.setReg .a (rimByte s.rimIeBit.2.rimSample.1 s.ctl s.rimIeBit.1)).setCtl
      { s.ctl with trapRim := false } := by
  cases hv : s.platform.variant with
  | v8080A => simp [exec_rim_of_8080 hv] at h
  | v8085A => exact Host.Outcome.next.inj (h.symm.trans (exec_rim_of_8085 hv))

/-- Where `SIM` answers a next state, it is the one of the 8085A. -/
theorem eq_of_exec_sim {s t : State} (h : exec .sim s = .next t) : t = s.setCtl (simCtl s.regs.a s.ctl) := by
  cases hv : s.platform.variant with
  | v8080A => simp [exec_sim_of_8080 hv] at h
  | v8085A => exact Host.Outcome.next.inj (h.symm.trans (exec_sim_of_8085 hv))

/-! ## Conditional operations, field by field -/

@[simp] theorem onCond_flags (s : State) (k : Cond) (f : State → State) :
    (s.onCond k f).flags = if condHolds s.flags k then (f s).flags else s.flags :=
  apply_ite State.flags _ _ _

@[simp] theorem onCond_sp (s : State) (k : Cond) (f : State → State) :
    (s.onCond k f).sp = if condHolds s.flags k then (f s).sp else s.sp :=
  apply_ite State.sp _ _ _

/-! ## The flags (10_state.md R29) -/

/-- Settles O44: outside the table each meaning is made of shared operations that leave the flags alone. -/
theorem onlyTheTableWritesFlags : Obligations.OnlyTheTableWritesFlags := by
  intro i s t h
  cases i
  case addR | addM | adi | adcR | adcM | aci | subR | subM | sui | cmpR | cmpM | cpi | sbbR | sbbM | sbi | inrR | inrM |
      dcrR | dcrM | dad | daa | anaR | anaM | ani | xraR | xraM | xri | oraR | oraM | ori | rlc | rrc | ral | rar | cmc |
      stc | popPsw =>
    exact trivial
  case undef08 | undef10 | undef18 | undef28 | undef38 | undefCB | undefD9 | undefDD | undefED | undefFD =>
    exact nomatch h
  case rim => simp [eq_of_exec_rim h]
  case sim => simp [eq_of_exec_sim h]
  all_goals
    obtain rfl := Host.Outcome.next.inj h
    simp

/-! ## SP and the control state (10_state.md R24, R30 to R37) -/

theorem usesCtl_iff (i : Instr) : usesCtl i = true ↔ i = .ei ∨ i = .di ∨ i = .hlt ∨ i = .rim ∨ i = .sim := by
  cases i <;> simp [usesCtl]

/-- The masks and SOD are written by `SIM` only (R31, R33). -/
theorem exec_masks_sod {i : Instr} {s t : State} (hi : i ≠ .sim) (h : exec i s = .next t) :
    t.ctl.m55 = s.ctl.m55 ∧ t.ctl.m65 = s.ctl.m65 ∧ t.ctl.m75 = s.ctl.m75 ∧ t.ctl.sod = s.ctl.sod := by
  cases i
  case sim => exact absurd rfl hi
  case rim => simp [eq_of_exec_rim h]
  case ei | di | hlt =>
    obtain rfl := Host.Outcome.next.inj h
    simp
  all_goals simp [exec_ctl rfl h]

/-- Settles O45. SP instruction by instruction: the shared operations outside the stack leave it alone, and a condition that
fails does nothing; the control state by `exec_ctl`, the masks and SOD by `exec_masks_sod`. -/
theorem onlyTheirInstructionsWriteSpAndControl : Obligations.OnlyTheirInstructionsWriteSpAndControl := by
  intro i s t h
  refine ⟨?_, fun hne => (usesCtl_iff i).1 ?_, fun hne => ?_⟩
  · cases i
    case sphl | push | pushPsw | pop | popPsw | call | ret | rst => exact trivial
    case undef08 | undef10 | undef18 | undef28 | undef38 | undefCB | undefD9 | undefDD | undefED | undefFD =>
      exact nomatch h
    case rim => simp [eq_of_exec_rim h]
    case sim => simp [eq_of_exec_sim h]
    all_goals obtain rfl := Host.Outcome.next.inj h
    case cnz | cz | cnc | cc | cpo | cpe | cp | cm | rnz | rz | rnc | rc | rpo | rpe | rp | rm =>
      intro hc
      simp [condHolds, hc]
    case lxi rp _ | inx rp | dcx rp => cases rp <;> simp
    all_goals simp
  · cases hu : usesCtl i with
    | false => exact absurd (exec_ctl hu h) hne
    | true => rfl
  · by_contra hi
    obtain ⟨h55, h65, h75, hsod⟩ := exec_masks_sod hi h
    simp [h55, h65, h75, hsod] at hne

/-! ## AC after a subtraction (D3, log 17) -/

/-- Where the AC an instruction leaves is that of `a - b - c`, it is 1 exactly when the low digit needs no borrow. -/
theorem completes_of_ac_eq_sub8 {i : Instr} {s t : State} {a b : Byte} {c : Bool} (h : exec i s = .next t)
    (hac : t.flags.ac = (sub8 a b c).ac) :
    Completes i s (fun t => t.flags.ac = true ↔ b.toNat % 16 + c.toNat ≤ a.toNat % 16) :=
  ⟨t, h, by simp [hac, sub8_ac]⟩

/-- Settles O16: each of these instructions takes its AC from `sub8`, of which `sub8_ac` says what it is. In the memory forms
the operands are A and the byte at H :: L from before the access, which leaves A alone. -/
theorem subtractionAuxiliaryCarry : Obligations.SubtractionAuxiliaryCarry := by
  intro s r data noBorrow a m
  refine ⟨completes_of_ac_eq_sub8 rfl rfl, completes_of_ac_eq_sub8 rfl ?subM, completes_of_ac_eq_sub8 rfl rfl,
    completes_of_ac_eq_sub8 rfl rfl, completes_of_ac_eq_sub8 rfl ?sbbM, completes_of_ac_eq_sub8 rfl rfl,
    completes_of_ac_eq_sub8 rfl rfl, completes_of_ac_eq_sub8 rfl ?cmpM, completes_of_ac_eq_sub8 rfl rfl,
    completes_of_ac_eq_sub8 rfl rfl, completes_of_ac_eq_sub8 rfl rfl⟩
  case subM | sbbM | cmpM => simp [a, m]

/-! ## The invariant at power-up (10_state.md R39) -/

/-- The state right after reset has the invariant on every platform. -/
theorem powerUp_inv (p : Platform) : (State.powerUp p).Inv := ⟨powerUp_mem_wf p, nofun, nofun⟩

/-- Settles O47. -/
theorem resetHasInv : Obligations.ResetHasInv := powerUp_inv _

end Sys2Proof.Machine
end

section
/-! SUPPORT. What `MemRead` and `MemWrite` of one byte do, kind of location by kind of location (20_memory.md R52 to R54, D5). -/

namespace Sys2Proof.Machine

section
variable (s : State)

/-- Replacing the environment's side is inside the frame that excepts it alone. -/
theorem keepsBut_env (e : Env) : KeepsBut [.env] [] s { s with env := e } :=
  ⟨fun r _ => reg_congr rfl r, fun _ => rfl, fun _ => rfl, fun _ => rfl, fun _ => rfl, fun _ _ _ => rfl,
    fun h => absurd List.mem_cons_self h, rfl, rfl⟩

/-! ## Memory -/

theorem byteAt_of_ram {a : Word} (h : kindAt s.platform a = .ram) : s.byteAt a = s.mem.read a.toNat := by
  rw [← memRead_fst, memRead_of_ram s a h]

theorem byteAt_of_rom {a : Word} (h : kindAt s.platform a = .rom) : s.byteAt a = romByte s.platform a := by
  simp [State.byteAt, State.memRead, h]

/-- What a location of RAM reads as after a write to a location of RAM. -/
theorem byteAt_memWrite_of_ram {a b : Word} (v : Byte) (ha : kindAt s.platform a = .ram)
    (hb : kindAt s.platform b = .ram) : (s.memWrite a v).byteAt b = if b = a then v else s.byteAt b := by
  rw [byteAt_of_ram _ (by simpa using hb), byteAt_of_ram s hb, memWrite_read]
  simp [ha, BitVec.toNat_inj]

/-- A write to ROM or to an absent location is dropped (D5, log 12). -/
theorem memWrite_of_dropped {a : Word} (v : Byte) (h : kindAt s.platform a = .rom ∨ kindAt s.platform a = .absent) :
    s.memWrite a v = s := by
  rcases h with h | h <;> simp [State.memWrite, h]

theorem memWrite_of_device {a : Word} (v : Byte) (h : kindAt s.platform a = .device) :
    s.memWrite a v = s.emit (.deviceWrite a v) := by
  simp [State.memWrite, h]

/-! ## What is no memory -/

theorem busDraw_of_input {v : Byte} {rest : List Byte} (a : Word) (h : s.env.bus = v :: rest) :
    s.busDraw a = (v, { s with env := { s.env with bus := rest } }) := by
  simp [State.busDraw, h]

theorem busDraw_of_none (a : Word) (h : s.env.bus = []) :
    s.busDraw a = (Config.busByte s.env.draws a, s.countDraw) := by
  simp [State.busDraw, h]

/-- The state with a read at `a` on the record, where a device sees it. -/
def State.recordRead (s : State) (a : Word) : State :=
  { s with env :=
    { s.env with trace := s.env.trace ++ (if kindAt s.platform a = .device then [.deviceRead a] else []) } }

/-- A read of a location that is no memory is a draw after its record (D5). -/
theorem memRead_of_bus {a : Word} (h : kindAt s.platform a = .absent ∨ kindAt s.platform a = .device) :
    s.memRead a = (s.recordRead a).busDraw a := by
  rcases h with h | h <;> simp [State.memRead, State.recordRead, State.emit, h]

end

/-! ## The two statements -/

/-- Settles O42, clause by clause over the kinds; `byteAt_memWrite_of_ram` is both read-after-write clauses. -/
theorem memoryReadsWhatWasWritten : Obligations.MemoryReadsWhatWasWritten := by
  intro s a v
  refine ⟨fun hram => ⟨memRead_of_ram s a hram, ?same, fun b hne hb => ?other⟩, fun hrom => ⟨?rom, ?romWrite⟩,
    fun habs => memWrite_of_dropped s v (.inr habs), fun hdev => ?device⟩
  case same =>
    rw [memRead_of_plain _ a (.inl (by simpa using hram)), byteAt_memWrite_of_ram s v hram hram, if_pos rfl]
  case other => rw [byteAt_memWrite_of_ram s v hram hb, if_neg hne]
  case rom => rw [memRead_of_plain s a (.inr hrom), byteAt_of_rom s hrom]
  case romWrite => exact memWrite_of_dropped s v (.inl hrom)
  case device =>
    rw [memWrite_of_device s v hdev]
    exact ⟨keepsBut_env s _, emit_env s _⟩

/-- Settles O43: the frame is `memRead_state`, the two answers of the environment are the two cases of a draw. -/
theorem readsBeyondMemoryAreInputs : Obligations.ReadsBeyondMemoryAreInputs := by
  intro s a hkind
  refine ⟨?frame, fun v rest hbus => ?input, fun hbus => ?free⟩
  case frame =>
    rw [memRead_state]
    exact keepsBut_env s _
  case input =>
    have hread := (memRead_of_bus s hkind).trans (busDraw_of_input (s.recordRead a) a hbus)
    exact ⟨congrArg Prod.fst hread, congrArg (fun r => r.2.env) hread⟩
  case free =>
    have hread := (memRead_of_bus s hkind).trans (busDraw_of_none (s.recordRead a) a hbus)
    exact congrArg (fun r => r.2.env) hread

end Sys2Proof.Machine
end

section
/-! SUPPORT. The opcode map read in both directions (30_encoding.md R71 to R82, R87): from an instruction to its bytes and
back, and from byte 1 to the row of the table that has it. -/

namespace Sys2Proof

open Machine

/-! ## The fields of byte 1 (R72) and the codes of registers (R73) -/

/-- Byte 1 is made of its three fields. -/
theorem fields_append (op : Byte) : fieldQuadrant op ++ fieldDDD op ++ fieldSSS op = op := by
  revert op
  decide +kernel

@[simp] theorem fieldQuadrant_append (q : BitVec 2) (d s : BitVec 3) : fieldQuadrant (q ++ d ++ s) = q := by
  revert q d s
  decide +kernel

@[simp] theorem fieldDDD_append (q : BitVec 2) (d s : BitVec 3) : fieldDDD (q ++ d ++ s) = d := by
  revert q d s
  decide +kernel

@[simp] theorem fieldSSS_append (q : BitVec 2) (d s : BitVec 3) : fieldSSS (q ++ d ++ s) = s := by
  revert q d s
  decide +kernel

/-- The eight values of a three-bit field. -/
theorem code_cases (c : BitVec 3) : c = 0b000#3 ∨ c = 0b001#3 ∨ c = 0b010#3 ∨ c = 0b011#3 ∨ c = 0b100#3 ∨ c = 0b101#3 ∨
    c = 0b110#3 ∨ c = 0b111#3 := by
  revert c
  decide

/-- The four values of the quadrant field. -/
theorem quadrant_cases (q : BitVec 2) : q = 0b00#2 ∨ q = 0b01#2 ∨ q = 0b10#2 ∨ q = 0b11#2 := by
  revert q
  decide

/-- A code is that of a register, or the one that selects memory. -/
theorem regOfCode_cases (c : BitVec 3) :
    (∃ r, regOfCode c = some r ∧ regCode r = c) ∨ (regOfCode c = none ∧ c = 0b110#3) := by
  rcases code_cases c with rfl | rfl | rfl | rfl | rfl | rfl | rfl | rfl
  exacts [.inl ⟨.b, rfl, rfl⟩, .inl ⟨.c, rfl, rfl⟩, .inl ⟨.d, rfl, rfl⟩, .inl ⟨.e, rfl, rfl⟩, .inl ⟨.h, rfl, rfl⟩,
    .inl ⟨.l, rfl, rfl⟩, .inr ⟨rfl, rfl⟩, .inl ⟨.a, rfl, rfl⟩]

/-! ## From byte 1 to the bytes of its row -/

/-- The row `layoutOf` gives for the first byte `op` is the one whose encoding begins with `op` and goes on with the bytes
the layout takes (R76). -/
inductive LayoutEncodes (op : Byte) : Layout → Prop where
  | one {i : Instr} (bytes : encode i = [op]) : LayoutEncodes op (.one i)
  | two {k : Byte → Instr} (bytes : ∀ b, encode (k b) = [op, b]) : LayoutEncodes op (.two k)
  | three {k : Word → Instr} (bytes : ∀ w, encode (k w) = [op, lowByte w, highByte w]) : LayoutEncodes op (.three k)

/-- Entry by entry of the opcode map, by its column SSS and its row DDD. -/
theorem layoutEncodes_quadrant0 (d s : BitVec 3) :
    LayoutEncodes (0b00#2 ++ d ++ s) (layoutQuadrant0 (0b00#2 ++ d ++ s)) := by
  rcases code_cases s with rfl | rfl | rfl | rfl | rfl | rfl | rfl | rfl
  all_goals
    rcases code_cases d with rfl | rfl | rfl | rfl | rfl | rfl | rfl | rfl
    all_goals constructor
  all_goals
    intros
    rfl

/-- The moves: a code of a register or of memory in either field, and `HLT` where both are memory's (R85). -/
theorem layoutEncodes_quadrant1 (d s : BitVec 3) :
    LayoutEncodes (0b01#2 ++ d ++ s) (layoutQuadrant1 (0b01#2 ++ d ++ s)) := by
  simp only [layoutQuadrant1, fieldDDD_append, fieldSSS_append]
  rcases regOfCode_cases d with ⟨r1, hd, rfl⟩ | ⟨hd, rfl⟩ <;> rcases regOfCode_cases s with ⟨r2, hs, rfl⟩ | ⟨hs, rfl⟩
  all_goals simp only [hd, hs]
  · exact .one rfl
  · exact .one rfl
  · cases r2 <;> exact .one rfl
  · exact .one rfl

/-- The accumulator operations: one of eight, on a register or on memory (R71). -/
theorem layoutEncodes_quadrant2 (d s : BitVec 3) :
    LayoutEncodes (0b10#2 ++ d ++ s) (layoutQuadrant2 (0b10#2 ++ d ++ s)) := by
  simp only [layoutQuadrant2, fieldDDD_append, fieldSSS_append]
  rcases regOfCode_cases s with ⟨r, hs, rfl⟩ | ⟨hs, rfl⟩
  · rw [hs]
    rcases code_cases d with rfl | rfl | rfl | rfl | rfl | rfl | rfl | rfl
    all_goals cases r <;> exact .one rfl
  · rw [hs]
    rcases code_cases d with rfl | rfl | rfl | rfl | rfl | rfl | rfl | rfl
    all_goals exact .one rfl

/-- Entry by entry, as in quadrant 0. -/
theorem layoutEncodes_quadrant3 (d s : BitVec 3) :
    LayoutEncodes (0b11#2 ++ d ++ s) (layoutQuadrant3 (0b11#2 ++ d ++ s)) := by
  rcases code_cases s with rfl | rfl | rfl | rfl | rfl | rfl | rfl | rfl
  all_goals
    rcases code_cases d with rfl | rfl | rfl | rfl | rfl | rfl | rfl | rfl
    all_goals constructor
  all_goals
    intros
    rfl

theorem layoutEncodes (op : Byte) : LayoutEncodes op (layoutOf op) := by
  rw [← fields_append op]
  generalize fieldDDD op = d, fieldSSS op = s
  rcases quadrant_cases (fieldQuadrant op) with hq | hq | hq | hq
  all_goals simp only [hq, layoutOf, fieldQuadrant_append]
  · exact layoutEncodes_quadrant0 d s
  · exact layoutEncodes_quadrant1 d s
  · exact layoutEncodes_quadrant2 d s
  · exact layoutEncodes_quadrant3 d s

theorem encode_of_one {op : Byte} {i : Instr} (h : layoutOf op = .one i) : encode i = [op] := by
  cases h ▸ layoutEncodes op with
  | one bytes => exact bytes

theorem encode_of_two {op : Byte} {k : Byte → Instr} (h : layoutOf op = .two k) (b : Byte) : encode (k b) = [op, b] := by
  cases h ▸ layoutEncodes op with
  | two bytes => exact bytes b

theorem encode_of_three {op : Byte} {k : Word → Instr} (h : layoutOf op = .three k) (w : Word) :
    encode (k w) = [op, lowByte w, highByte w] := by
  cases h ▸ layoutEncodes op with
  | three bytes => exact bytes w

/-- Settles O2: in each of the three layouts the bytes read are the bytes `encode` writes. -/
theorem encodeOfDecode : Obligations.EncodeOfDecode := by
  intro bs rest i h
  rcases decode_cases h with ⟨op, rfl, hl⟩ | ⟨op, b, k, rfl, hl, rfl⟩ | ⟨op, lo, hi, k, rfl, hl, rfl⟩
  · simp [encode_of_one hl]
  · simp [encode_of_two hl]
  · simp [encode_of_three hl]

/-! ## From an instruction to the row of its byte 1 -/

/-- An address or a 16-bit immediate is read back from its two bytes (R76). -/
theorem decode_address {op : Byte} {k : Word → Instr} (h : layoutOf op = .three k) (w : Word) (rest : List Byte) :
    decode (op :: lowByte w :: highByte w :: rest) = .ok (k w, rest) := by
  rw [decode_of_three h, wordOf_highByte_lowByte]

theorem layoutOf_rst (n : BitVec 3) : layoutOf (0b11#2 ++ n ++ 0b111#3) = .one (.rst n) := by
  simp [layoutOf, layoutQuadrant3]

/-- Settles O1. The bytes of a three-byte instruction are put together again by `decode_address`; in the others, once the
codes of the register operands are known, `decode` reads byte 1 and takes what stands behind it as it is. -/
theorem decodeOfEncode : Obligations.DecodeOfEncode := by
  intro i rest
  cases i
  case lda w | sta w | lhld w | shld w | jmp w | jnz w | jz w | jnc w | jc w | jpo w | jpe w | jp w | jm w | call w |
      cnz w | cz w | cnc w | cc w | cpo w | cpe w | cp w | cm w =>
    exact decode_address rfl w rest
  case lxi rp w => cases rp <;> exact decode_address rfl w rest
  case rst n => exact decode_of_one (layoutOf_rst n) rest
  case movRR r1 r2 => cases r1 <;> cases r2 <;> rfl
  case movRM r | movMR r | mviR r _ | addR r | adcR r | subR r | sbbR r | inrR r | dcrR r | anaR r | xraR r | oraR r |
      cmpR r =>
    cases r <;> rfl
  case ldax rp | stax rp | inx rp | dcx rp | dad rp | push rp | pop rp => cases rp <;> rfl
  all_goals rfl

/-- Settles O5: each word is the encoding of its instruction. -/
theorem wordsOfTheOpcodeMap : Obligations.WordsOfTheOpcodeMap :=
  ⟨decodeOfEncode (.movRR .b .c) [], decodeOfEncode (.lxi .hl 0x1234#16) [], decodeOfEncode (.sbi 0xFF#8) [],
    decodeOfEncode (.cmpR .e) [], decodeOfEncode (.cc 0x2000#16) [], decodeOfEncode (.rst 2#3) [],
    decodeOfEncode (.inPort 0x10#8) [], decodeOfEncode .hlt []⟩

/-! ## The length from byte 1 (R78) -/

/-- How many bytes a layout takes, byte 1 included. -/
def Layout.length : Layout → Nat
  | .one _ => 1
  | .two _ => 2
  | .three _ => 3

/-- The formula of R78 gives the length of the layout, for each of the 256 first bytes. -/
theorem opLength_eq_length (op : Byte) : opLength op = (layoutOf op).length := by
  revert op
  decide +kernel

/-- Where the bytes the formula asks for are there, `decode` takes just these. -/
theorem decode_of_opLength_le {op : Byte} {rest : List Byte} (h : opLength op ≤ rest.length + 1) :
    ∃ i, decode (op :: rest) = .ok (i, rest.drop (opLength op - 1)) ∧ (encode i).length = opLength op := by
  rw [opLength_eq_length] at h ⊢
  cases hl : layoutOf op with
  | one i => exact ⟨i, decode_of_one hl rest, length_of_one hl⟩
  | two k =>
    rw [hl] at h
    match rest, h with
    | b :: rest', _ => exact ⟨k b, decode_of_two hl b rest', length_of_two hl b⟩
  | three k =>
    rw [hl] at h
    match rest, h with
    | lo :: hi :: rest', _ => exact ⟨k (wordOf hi lo), decode_of_three hl lo hi rest', length_of_three hl _⟩

/-- Where some of them are missing, the instruction is truncated. -/
theorem decode_of_lt_opLength {op : Byte} {rest : List Byte} (h : rest.length + 1 < opLength op) :
    decode (op :: rest) = .error (.truncated op) := by
  rw [opLength_eq_length] at h
  cases hl : layoutOf op with
  | one i => simp [hl, Layout.length] at h
  | two k =>
    rw [hl] at h
    match rest, h with
    | [], _ => simp [decode, hl]
  | three k =>
    rw [hl] at h
    match rest, h with
    | [], _ => simp [decode, hl]
    | [_], _ => simp [decode, hl]

/-- Settles O3. It holds of the ten undefined first bytes too, for which the formula's "otherwise" is 1. -/
theorem lengthFromFirstByte : Obligations.LengthFromFirstByte :=
  fun _ _ _ => ⟨decode_of_opLength_le, decode_of_lt_opLength⟩

theorem opLength_le_three (op : Byte) : opLength op ≤ 3 := by
  rw [opLength_eq_length]
  cases layoutOf op <;> simp [Layout.length]

/-! ## What is no instruction (R80, R81) -/

/-- The rows that are no instruction of the 8085A. -/
theorem wellFormed_8085_eq_false_iff (i : Instr) : i.wellFormed .v8085A = false ↔
    i = .undef08 ∨ i = .undef10 ∨ i = .undef18 ∨ i = .undef28 ∨ i = .undef38 ∨ i = .undefCB ∨ i = .undefD9 ∨
      i = .undefDD ∨ i = .undefED ∨ i = .undefFD := by
  cases i <;> simp [Instr.wellFormed]

/-- Those of the 8080A: `RIM` and `SIM` as well. -/
theorem wellFormed_8080_eq_false_iff (i : Instr) :
    i.wellFormed .v8080A = false ↔ i.wellFormed .v8085A = false ∨ i = .rim ∨ i = .sim := by
  cases i <;> simp [Instr.wellFormed]

/-- An instruction of one byte is read exactly where that byte stands. -/
theorem eq_iff_firstByte_eq {op c : Byte} {tail rest : List Byte} {i j : Instr} (h : decode (op :: tail) = .ok (i, rest))
    (hj : encode j = [c]) : i = j ↔ op = c := by
  constructor
  · rintro rfl
    have hbytes := encodeOfDecode _ _ _ h
    rw [hj] at hbytes
    exact (List.cons.inj hbytes).1
  · rintro rfl
    have hdecode := decodeOfEncode j tail
    rw [hj] at hdecode
    exact (Prod.mk.inj (Except.ok.inj (h.symm.trans hdecode))).1

/-- Settles O4: the rows that are no instruction have one byte each, so they are read exactly where it stands. -/
theorem undefinedFirstBytes : Obligations.UndefinedFirstBytes := by
  intro op byte2 byte3
  obtain ⟨i, h, -⟩ := decode_of_opLength_le (rest := [byte2, byte3]) (opLength_le_three op)
  have hrow : ∀ {j : Instr} {c : Byte}, encode j = [c] → (i = j ↔ op = c) := eq_iff_firstByte_eq h
  have h8085 : i.wellFormed .v8085A = false ↔
      op ∈ [0x08#8, 0x10#8, 0x18#8, 0x28#8, 0x38#8, 0xCB#8, 0xD9#8, 0xDD#8, 0xED#8, 0xFD#8] := by
    rw [wellFormed_8085_eq_false_iff, hrow rfl, hrow rfl, hrow rfl, hrow rfl, hrow rfl, hrow rfl, hrow rfl, hrow rfl,
      hrow rfl, hrow rfl]
    simp only [List.mem_cons, List.not_mem_nil, or_false]
  refine ⟨i, _, h, h8085, ?_⟩
  rw [wellFormed_8080_eq_false_iff, h8085, hrow (j := .rim) rfl, hrow (j := .sim) rfl]
  simp only [List.mem_cons, List.not_mem_nil, or_false, or_assoc]

end Sys2Proof

namespace Sys2Proof.Machine

/-- Settles O8: the ten rows are refused outright, `RIM` and `SIM` by the part. -/
theorem undefinedOpcodesAreRefused : Obligations.UndefinedOpcodesAreRefused :=
  fun _ => ⟨rfl, rfl, rfl, rfl, rfl, rfl, rfl, rfl, rfl, rfl, fun hv => ⟨exec_rim_of_8080 hv, exec_sim_of_8080 hv⟩⟩

end Sys2Proof.Machine
end

section
/-! SUPPORT. The data transfer group (40_data_transfer.md R101 to R113): the frame of each operation that moves a byte,
the composition of frames, and for each shape of move (to a register, from memory, to memory) what its instructions do. -/

namespace Sys2Proof.Machine

/-! ## Frames -/

/-- A frame that excepts more is weaker. -/
theorem KeepsBut.mono {ps qs : List Part} {rs ts : List Reg} {s t : State} (h : KeepsBut ps rs s t) (hps : ps ⊆ qs)
    (hrs : rs ⊆ ts) : KeepsBut qs ts s t := by
  obtain ⟨hreg, hsp, hpc, hflags, hctl, hmem, henv, hplatform, hobserver⟩ := h
  have weaken {p : Part} (hn : p ∉ qs) : p ∉ ps := mt (@hps p) hn
  exact ⟨fun r hn => hreg r (mt (@hrs r) hn), hsp ∘ weaken, hpc ∘ weaken, hflags ∘ weaken, hctl ∘ weaken,
    hmem ∘ weaken, henv ∘ weaken, hplatform, hobserver⟩

/-- What two operations in turn except, each by its own frame, is all that they except together. -/
theorem KeepsBut.append {ps qs : List Part} {rs ts : List Reg} {s t u : State} (hst : KeepsBut ps rs s t)
    (htu : KeepsBut qs ts t u) : KeepsBut (ps ++ qs) (rs ++ ts) s u := by
  obtain ⟨hreg, hsp, hpc, hflags, hctl, hmem, henv, hplatform, hobserver⟩ :=
    hst.mono (List.subset_append_left ps qs) (List.subset_append_left rs ts)
  obtain ⟨kreg, ksp, kpc, kflags, kctl, kmem, kenv, kplatform, kobserver⟩ :=
    htu.mono (List.subset_append_right ps qs) (List.subset_append_right rs ts)
  exact ⟨fun r hn => (kreg r hn).trans (hreg r hn), fun hn => (ksp hn).trans (hsp hn),
    fun hn => (kpc hn).trans (hpc hn), fun hn => (kflags hn).trans (hflags hn), fun hn => (kctl hn).trans (hctl hn),
    fun hn a ha => (kmem hn a ha).trans (hmem hn a ha), fun hn => (kenv hn).trans (henv hn),
    kplatform.trans hplatform, kobserver.trans hobserver⟩

section
variable (s : State)

theorem keepsBut_setReg (r : Reg) (v : Byte) : KeepsBut [] [r] s (s.setReg r v) :=
  ⟨fun _ hr => reg_setReg_ne s v (List.ne_of_not_mem_cons hr), fun _ => setReg_sp s r v, fun _ => setReg_pc s r v,
    fun _ => setReg_flags s r v, fun _ => setReg_ctl s r v, fun _ _ _ => by rw [setReg_mem], fun _ => setReg_env s r v,
    setReg_platform s r v, setReg_tStates s r v⟩

/-- Only the pair SP has SP in it. -/
theorem setPair_sp_of_ne {rp : Pair} (v : Word) (h : rp ≠ .sp) : (s.setPair rp v).sp = s.sp := by
  cases rp with
  | sp => exact absurd rfl h
  | bc | de | hl => rfl

/-- A write of a pair stays within its two registers, or within SP (10_state.md R22). -/
theorem keepsBut_setPair (rp : Pair) (v : Word) :
    KeepsBut (if rp = .sp then [.sp] else []) (regsOfPair rp) s (s.setPair rp v) := by
  refine ⟨reg_setPair_ne s rp v, fun hn => setPair_sp_of_ne s v ?notSp, fun _ => setPair_pc s rp v,
    fun _ => setPair_flags s rp v, fun _ => setPair_ctl s rp v, fun _ _ _ => by rw [setPair_mem],
    fun _ => setPair_env s rp v, setPair_platform s rp v, setPair_tStates s rp v⟩
  case notSp =>
    rintro rfl
    exact hn List.mem_cons_self

theorem keepsBut_memRead (a : Word) : KeepsBut [.env] [] s (s.memRead a).2 := by
  rw [memRead_state]
  exact keepsBut_env s _

/-- A two-byte read changes no more than a one-byte read. -/
theorem keepsBut_memRead2 (a : Word) : KeepsBut [.env] [] s (s.memRead2 a).2 :=
  ((keepsBut_memRead s a).append (keepsBut_memRead _ (a + 1))).mono (by simp) (by simp)

theorem keepsBut_memWrite (a : Word) (v : Byte) : KeepsBut [.mem, .env] [] s (s.memWrite a v) :=
  ⟨fun r _ => memWrite_reg s a v r, fun _ => memWrite_sp s a v, fun _ => memWrite_pc s a v,
    fun _ => memWrite_flags s a v, fun _ => memWrite_ctl s a v, fun hn => absurd List.mem_cons_self hn,
    fun hn => absurd (List.mem_cons_of_mem _ List.mem_cons_self) hn, memWrite_platform s a v, memWrite_tStates s a v⟩

/-- A two-byte write changes no more than a one-byte write. -/
theorem keepsBut_memWrite2 (a v : Word) : KeepsBut [.mem, .env] [] s (s.memWrite2 a v) :=
  ((keepsBut_memWrite s a _).append (keepsBut_memWrite _ (a + 1) _)).mono (by simp) (by simp)

end

/-! ## Rows of the table -/

/-- The row of an instruction whose figures do not depend on a condition. -/
theorem rowOf_of_table {i : Instr} {bytes : List Byte} {cycles t85 t80 : Nat} (hbytes : encode i = bytes)
    (hcycles : ∀ v taken, (machineCyclesOf v taken i).length = cycles)
    (h85 : ∀ taken, tStatesOf .v8085A taken i = some t85)
    (h80 : ∀ taken, tStatesOf .v8080A taken i = some t80) : RowOf i bytes cycles t85 t80 :=
  ⟨hbytes, fun taken => ⟨fun v => hcycles v taken, h85 taken, h80 taken⟩⟩

/-! ## The three moves of one byte -/

section
variable {i : Instr} {s : State}

/-- An instruction that writes `v` to `r`. -/
theorem completes_of_setReg {r : Reg} {v : Byte} (h : exec i s = .next (s.setReg r v)) :
    Completes i s (fun t => t.reg r = v ∧ KeepsBut [] [r] s t) :=
  ⟨_, h, reg_setReg_same s r v, keepsBut_setReg s r v⟩

/-- An instruction that reads the byte at `a` and writes it to `r`. -/
theorem completes_of_load {r : Reg} {a : Word} (h : exec i s = .next ((s.memRead a).2.setReg r (s.byteAt a))) :
    Completes i s (fun t => t.reg r = s.byteAt a ∧ KeepsBut [.env] [r] s t ∧ t.env = (s.memRead a).2.env) :=
  ⟨_, h, reg_setReg_same _ r _, (keepsBut_memRead s a).append (keepsBut_setReg _ r _), setReg_env _ r _⟩

/-- An instruction that stores `v` at `a`. -/
theorem completes_of_store {a : Word} {v : Byte} (h : exec i s = .next (s.memWrite a v)) :
    Completes i s (fun t => StoresBytes [(a, v)] s t ∧ KeepsBut [.mem, .env] [] s t ∧ t.env = (s.memWrite a v).env) :=
  ⟨_, h, storesBytes_one s a v, keepsBut_memWrite s a v, rfl⟩

end

/-- Settles O9: both instructions write one register. -/
theorem movAndMviWriteOneRegister : Obligations.MovAndMviWriteOneRegister := by
  intro s r1 r2 data
  refine ⟨⟨completes_of_setReg rfl, ?mov⟩, completes_of_setReg rfl, ?mvi⟩
  case mov | mvi => exact rowOf_of_table rfl (fun _ _ => rfl) (fun _ => rfl) (fun _ => rfl)

/-- Settles O10: three loads, which differ in the register and the address. -/
theorem loadsReadOneByte : Obligations.LoadsReadOneByte := by
  intro s r addr rp
  refine ⟨⟨completes_of_load rfl, ?movM⟩, ⟨completes_of_load (r := .a) rfl, ?lda⟩,
    completes_of_load (r := .a) rfl, ?ldax⟩
  case movM | lda | ldax => exact rowOf_of_table rfl (fun _ _ => rfl) (fun _ => rfl) (fun _ => rfl)

/-- Settles O11: four stores, which differ in the address and the byte. -/
theorem storesWriteOneByte : Obligations.StoresWriteOneByte := by
  intro s r data addr rp
  refine ⟨⟨completes_of_store rfl, ?movM⟩, ⟨completes_of_store rfl, ?mviM⟩, ⟨completes_of_store rfl, ?sta⟩,
    completes_of_store rfl, ?stax⟩
  case movM | mviM | sta | stax => exact rowOf_of_table rfl (fun _ _ => rfl) (fun _ => rfl) (fun _ => rfl)

/-! ## The moves of two bytes -/

/-- `XCHG` writes both pairs, each with what the other held before (R113). -/
theorem exec_xchg (s : State) : exec .xchg s = .next ((s.setPair .hl (s.pair .de)).setPair .de s.hl) := rfl

/-- Settles O12: `LXI` is one write of a pair, `XCHG` two. -/
theorem lxiAndXchgWritePairs : Obligations.LxiAndXchgWritePairs := by
  intro s rp data
  refine ⟨⟨⟨_, rfl, pair_setPair_same s rp data, keepsBut_setPair s rp data⟩, ?lxi⟩,
    ⟨_, exec_xchg s, ?h, ?l, ?d, ?e, (keepsBut_setPair s .hl _).append (keepsBut_setPair _ .de _)⟩, ?xchg⟩
  case h | l | d | e => simp [hl_eq]
  case lxi | xchg => exact rowOf_of_table rfl (fun _ _ => rfl) (fun _ => rfl) (fun _ => rfl)

/-- A two-byte write of H :: L puts L at the lower address, first, and H after it (R110, D4). -/
theorem memWrite2_hl_eq (s : State) (a : Word) :
    s.memWrite2 a s.hl = (s.memWrite a s.regs.l).memWrite (a + 1) s.regs.h := by
  simp [State.memWrite2, hl_eq]

/-- The successor of an address is another address, FFFFH included, whose successor is 0000H (D1). -/
theorem ne_add_one (a : Word) : a ≠ a + 1 := by bv_omega

theorem exec_lhld (addr : Word) (s : State) :
    exec (.lhld addr) s = .next ((s.memRead2 addr).2.setPair .hl (s.memRead2 addr).1) := rfl

theorem exec_shld (addr : Word) (s : State) :
    exec (.shld addr) s = .next ((s.memWrite addr s.regs.l).memWrite (addr + 1) s.regs.h) :=
  congrArg Host.Outcome.next (memWrite2_hl_eq s addr)

/-- Settles O13: `LHLD` is a two-byte read and a write of the pair, `SHLD` a two-byte write at two different addresses. -/
theorem lhldAndShldMoveTwoBytes : Obligations.LhldAndShldMoveTwoBytes := by
  intro s addr
  refine ⟨⟨⟨_, exec_lhld addr s, ?low, ?high, ?frame, setPair_env _ .hl _⟩, ?lhld⟩,
    ⟨_, exec_shld addr s, storesBytes_two s _ _ (ne_add_one addr), ?shldFrame, rfl⟩, ?shld⟩
  case low | high => simp [memRead2_spec]
  case frame => exact (keepsBut_memRead2 s addr).append (keepsBut_setPair _ .hl _)
  case shldFrame =>
    rw [← memWrite2_hl_eq]
    exact keepsBut_memWrite2 s addr s.hl
  case lhld | shld => exact rowOf_of_table rfl (fun _ _ => rfl) (fun _ => rfl) (fun _ => rfl)

end Sys2Proof.Machine
end

section
/-! SUPPORT. The arithmetic group (41_arithmetic.md R121 to R140): the frame of each write-back of a result, the one-line
form of `DAA`, and for each shape of instruction (A and an operand, a counter, a pair) what its instructions do. -/

namespace Sys2Proof.Machine

/-! ## Frames -/

section
variable (s : State)

theorem keepsBut_setFlags (f : Flags) : KeepsBut [.flags] [] s (s.setFlags f) :=
  ⟨fun r _ => setFlags_reg s f r, fun _ => rfl, fun _ => rfl, fun hn => absurd List.mem_cons_self hn, fun _ => rfl,
    fun _ _ _ => rfl, fun _ => rfl, rfl, rfl⟩

/-- A result written to a register, with its flags. -/
theorem keepsBut_setReg_setFlags (r : Reg) (v : Byte) (f : Flags) :
    KeepsBut [.flags] [r] s ((s.setReg r v).setFlags f) :=
  (keepsBut_setReg s r v).append (keepsBut_setFlags _ f)

theorem keepsBut_setAluA (r : AluOut) : KeepsBut [.flags] [.a] s (s.setAluA r) :=
  keepsBut_setReg_setFlags s .a r.result r.flags

/-- A byte read, replaced at its place, and the flags of the result. -/
theorem keepsBut_memRead_memWrite_setFlags (a : Word) (v : Byte) (f : Flags) :
    KeepsBut [.flags, .mem, .env] [] s (((s.memRead a).2.memWrite a v).setFlags f) :=
  (((keepsBut_memRead s a).append (keepsBut_memWrite _ a v)).append (keepsBut_setFlags _ f)).mono (by simp) (by simp)

end

/-! ## A and an operand: addition and subtraction -/

section
variable {i : Instr} {s : State} {r : AluOut} {P : Byte → Flags → Prop}

/-- An instruction that writes a result and its flags, of which `P` holds. -/
theorem completes_of_setAluA (h : exec i s = .next (s.setAluA r)) (hr : P r.result r.flags) :
    Completes i s (fun t => P t.regs.a t.flags ∧ KeepsBut [.flags] [.a] s t) :=
  ⟨_, h, by simpa using hr, keepsBut_setAluA s r⟩

/-- The same after a read of memory. -/
theorem completes_of_memRead_setAluA {a : Word} (h : exec i s = .next ((s.memRead a).2.setAluA r))
    (hr : P r.result r.flags) :
    Completes i s (fun t => P t.regs.a t.flags ∧ KeepsBut [.flags, .env] [.a] s t ∧ t.env = (s.memRead a).2.env) :=
  ⟨_, h, by simpa using hr, ((keepsBut_memRead s a).append (keepsBut_setAluA _ r)).mono (by simp) (by simp),
    setAluA_env _ r⟩

end

/-- A memory operand is added to the A from before the access, which leaves A alone. -/
theorem memRead_addA (s : State) (a : Word) (b : Byte) (c : Bool) :
    (s.memRead a).2.addA b c = (s.memRead a).2.setAluA (add8 s.regs.a b c) := by simp

theorem memRead_subA (s : State) (a : Word) (b : Byte) (c : Bool) :
    (s.memRead a).2.subA b c = (s.memRead a).2.setAluA (sub8 s.regs.a b c) := by simp

/-- Settles O14: six instructions that write back `add8`, which differ in the operand and the carry. -/
theorem additionsAreExact : Obligations.AdditionsAreExact := by
  intro s r data
  refine ⟨⟨completes_of_setAluA rfl (add8_spec _ _ _), ?addR⟩,
    ⟨completes_of_memRead_setAluA (congrArg Host.Outcome.next (memRead_addA s _ _ _)) (add8_spec _ _ _), ?addM⟩,
    ⟨completes_of_setAluA rfl (add8_spec _ _ _), ?adi⟩,
    ⟨completes_of_setAluA rfl (add8_spec _ _ _), ?adcR⟩,
    ⟨completes_of_memRead_setAluA (congrArg Host.Outcome.next (memRead_addA s _ _ _)) (add8_spec _ _ _), ?adcM⟩,
    completes_of_setAluA rfl (add8_spec _ _ _), ?aci⟩
  case addR | addM | adi | adcR | adcM | aci =>
    exact rowOf_of_table rfl (fun _ _ => rfl) (fun _ => rfl) (fun _ => rfl)

/-- Settles O15: six instructions that write back `sub8`, which differ in the operand and the borrow. -/
theorem subtractionsAreExact : Obligations.SubtractionsAreExact := by
  intro s r data
  refine ⟨⟨completes_of_setAluA rfl (sub8_spec _ _ _), ?subR⟩,
    ⟨completes_of_memRead_setAluA (congrArg Host.Outcome.next (memRead_subA s _ _ _)) (sub8_spec _ _ _), ?subM⟩,
    ⟨completes_of_setAluA rfl (sub8_spec _ _ _), ?sui⟩,
    ⟨completes_of_setAluA rfl (sub8_spec _ _ _), ?sbbR⟩,
    ⟨completes_of_memRead_setAluA (congrArg Host.Outcome.next (memRead_subA s _ _ _)) (sub8_spec _ _ _), ?sbbM⟩,
    completes_of_setAluA rfl (sub8_spec _ _ _), ?sbi⟩
  case subR | subM | sui | sbbR | sbbM | sbi =>
    exact rowOf_of_table rfl (fun _ _ => rfl) (fun _ => rfl) (fun _ => rfl)

/-! ## Counting a byte -/

theorem add8_one_result (a : Byte) : (add8 a 1#8 false).result.toNat = (a.toNat + 1) % 256 := add8_result a 1#8 false

/-- Counting up carries out of bit 3 from a low digit of 15 alone. -/
theorem add8_one_ac_iff (a : Byte) : (add8 a 1#8 false).ac = true ↔ a.toNat % 16 = 15 := by
  simp only [add8_ac, BitVec.toNat_ofNat, Bool.toNat_false, decide_eq_true_iff]
  omega

theorem sub8_one_result (a : Byte) : (sub8 a 1#8 false).result.toNat = (a.toNat + 255) % 256 := sub8_result a 1#8 false

/-- A byte stored where it was read is stored in the state from before the read. -/
theorem storesBytes_memRead_memWrite_setFlags (s : State) (a : Word) (v : Byte) (f : Flags) :
    StoresBytes [(a, v)] s (((s.memRead a).2.memWrite a v).setFlags f) :=
  storesBytes_congr (storesBytes_one (s.memRead a).2 a v) (memRead_mem s a).symm (memRead_platform s a).symm rfl

/-- A register that takes a result reads as that result, whatever becomes of the flags. -/
theorem reg_setReg_setFlags (s : State) (r : Reg) (v : Byte) (f : Flags) :
    ((s.setReg r v).setFlags f).reg r = v := by simp

/-- Settles O17: both directions write back a result of `add8` or `sub8` with the operand 1 and keep CY; the memory forms
read and store at H :: L. -/
theorem inrAndDcrKeepCarry : Obligations.InrAndDcrKeepCarry := by
  intro s r m
  refine ⟨⟨⟨_, rfl, ?inrResult, flagsKeepCy_cy _ _, add8_one_ac_iff (s.reg r), ?inrZsp,
      keepsBut_setReg_setFlags s r _ _⟩, ?inrR⟩,
    ⟨⟨_, rfl, ?dcrResult, flagsKeepCy_cy _ _, ?dcrZsp, keepsBut_setReg_setFlags s r _ _⟩, ?dcrR⟩,
    ⟨⟨_, rfl, (add8 m 1#8 false).result, add8_one_result m, flagsKeepCy_cy _ _, add8_one_ac_iff m,
      flagsKeepCy_zsp _ s.flags, storesBytes_memRead_memWrite_setFlags s s.hl _ _,
      keepsBut_memRead_memWrite_setFlags s s.hl _ _, rfl⟩, ?inrM⟩,
    ⟨_, rfl, (sub8 m 1#8 false).result, sub8_one_result m, flagsKeepCy_cy _ _, flagsKeepCy_zsp _ s.flags,
      storesBytes_memRead_memWrite_setFlags s s.hl _ _, keepsBut_memRead_memWrite_setFlags s s.hl _ _, rfl⟩, ?dcrM⟩
  case inrResult =>
    rw [reg_setReg_setFlags]
    exact add8_one_result _
  case dcrResult =>
    rw [reg_setReg_setFlags]
    exact sub8_one_result _
  case inrZsp | dcrZsp =>
    rw [reg_setReg_setFlags]
    exact flagsKeepCy_zsp _ _
  case inrR | dcrR | inrM | dcrM => exact rowOf_of_table rfl (fun _ _ => rfl) (fun _ => rfl) (fun _ => rfl)

/-! ## Pairs -/

/-- Settles O18: one write of the pair, 16-bit arithmetic being modulo 65,536 (D1). -/
theorem inxAndDcxWrap : Obligations.InxAndDcxWrap := by
  intro s rp
  refine ⟨⟨⟨_, rfl, ?up, keepsBut_setPair s rp _⟩, ?inx⟩, ⟨_, rfl, ?down, keepsBut_setPair s rp _⟩, ?dcx⟩
  case up => rw [pair_setPair_same, BitVec.toNat_add, BitVec.toNat_ofNat]
  case down => rw [pair_setPair_same, BitVec.toNat_sub, BitVec.toNat_ofNat, Nat.add_comm]
  case inx | dcx => exact rowOf_of_table rfl (fun _ _ => rfl) (fun _ => rfl) (fun _ => rfl)

/-- Settles O19: a write of H :: L and of CY, both from the 17-bit sum. -/
theorem dadAddsToHl : Obligations.DadAddsToHl := by
  intro s rp
  refine ⟨⟨_, rfl, ?sum, ?carry, (keepsBut_setPair s .hl _).append (keepsBut_setFlags _ _)⟩, ?row⟩
  case sum =>
    rw [setCy_hl, ← pair_hl, pair_setPair_same]
    exact add16_result s.hl (s.pair rp)
  case carry => rw [setCy_flags, setPair_flags, add16_cy]
  case row => exact rowOf_of_table rfl (fun _ _ => rfl) (fun _ => rfl) (fun _ => rfl)

/-! ## `DAA` in one line (R140, D8) -/

theorem lowDigit_toNat (a : Byte) : (a.extractLsb' 0 4).toNat = a.toNat % 16 := by
  simp [BitVec.extractLsb'_toNat]

theorem highDigit_toNat (a : Byte) : (a.extractLsb' 4 4).toNat = a.toNat / 16 := by
  have ha := a.isLt
  simp only [BitVec.extractLsb'_toNat, Nat.shiftRight_eq_div_pow]
  omega

/-- Where `DAA` adds 06H: the low digit exceeds 9, or the operation before carried out of it (R140, step 1). -/
def addsSix (a : Byte) (ac : Bool) : Bool := decide (9 < a.toNat % 16) || ac

/-- Where `DAA` adds 60H, told from A before either step: the high digit exceeds 9, or CY is 1, or the carry of the low
digit makes a high digit of 9 exceed it (R140's one line). -/
def addsSixty (a : Byte) (cy : Bool) : Bool :=
  decide (9 < a.toNat / 16) || cy || (decide (9 ≤ a.toNat / 16) && decide (9 < a.toNat % 16))

/-- Whether a number reaches A0H can be told from its eight bits and its carry. -/
theorem carry_or_le_iff (x k : Nat) : 160 ≤ x % 256 + k ∨ 256 ≤ x ↔ 160 ≤ x + k := by
  rcases Nat.lt_or_ge x 256 with h | h
  · rw [Nat.mod_eq_of_lt h]
    omega
  · exact ⟨fun _ => by omega, fun _ => .inr h⟩

/-- 60H is added where the number after the first step, its carry included, reaches A0H, or CY is 1. -/
theorem addsSixty_iff (a : Byte) (cy ac : Bool) :
    addsSixty a cy = true ↔ 160 ≤ a.toNat + 6 * (addsSix a ac).toNat ∨ cy = true := by
  simp only [addsSixty, Bool.or_eq_true, Bool.and_eq_true, decide_eq_true_iff]
  rw [or_right_comm]
  refine or_congr_left ?_
  cases hsix : addsSix a ac with
  | true =>
    simp only [Bool.toNat_true]
    omega
  | false =>
    have hlo : a.toNat % 16 ≤ 9 := by simp_all [addsSix]
    simp only [Bool.toNat_false]
    omega

/-- The 9-bit sum of a step of `DAA` that adds `k` where `b` says so. -/
def adjust (a : Byte) (b : Bool) (k : BitVec 9) : BitVec 9 := a.setWidth 9 + (if b then k else 0x00#9)

/-- The 9 bits hold the sum with its carry. -/
theorem adjust_toNat (a : Byte) (b : Bool) {k : BitVec 9} (hk : k.toNat ≤ 96) :
    (adjust a b k).toNat = a.toNat + k.toNat * b.toNat := by
  have ha := a.isLt
  cases b with
  | true =>
    simp only [adjust, if_true, BitVec.toNat_add, BitVec.toNat_setWidth, Bool.toNat_true]
    omega
  | false =>
    simp only [adjust, Bool.false_eq_true, if_false, BitVec.toNat_add, BitVec.toNat_setWidth, BitVec.toNat_ofNat,
      Bool.toNat_false]
    omega

/-- The first step of `DAA`, with its carry. -/
def adjustLow (a : Byte) (ac : Bool) : BitVec 9 := adjust a (addsSix a ac) 0x06#9

/-- The second step of `DAA`, on the eight bits of the first, with its carry. -/
def adjustHigh (a : Byte) (cy ac : Bool) : BitVec 9 := adjust ((adjustLow a ac).setWidth 8) (addsSixty a cy) 0x60#9

theorem adjustLow_toNat (a : Byte) (ac : Bool) : (adjustLow a ac).toNat = a.toNat + 6 * (addsSix a ac).toNat :=
  adjust_toNat a _ (by decide)

theorem adjustHigh_toNat (a : Byte) (cy ac : Bool) : (adjustHigh a cy ac).toNat =
    (a.toNat + 6 * (addsSix a ac).toNat) % 256 + 96 * (addsSixty a cy).toNat := by
  rw [adjustHigh, adjust_toNat _ _ (by decide), BitVec.toNat_setWidth, adjustLow_toNat]
  rfl

/-- The test of the second step, on the high digit and the carry after the first, is the one-line test on A. -/
theorem high_test_eq_addsSixty (a : Byte) (cy ac : Bool) :
    (decide (((adjustLow a ac).setWidth 8).toNat / 16 > 9) || cy || (adjustLow a ac).getLsbD 8) = addsSixty a cy := by
  rw [Bool.eq_iff_iff, addsSixty_iff a cy ac]
  simp only [getLsbD_eight, BitVec.toNat_setWidth, adjustLow_toNat, Bool.or_eq_true, decide_eq_true_iff]
  rw [or_right_comm]
  exact or_congr_left ((or_congr_left (Nat.le_div_iff_mul_le (by decide))).trans (carry_or_le_iff _ 0))

/-- The model's two steps, with the one-line tests in place of its own. -/
theorem daa_eq (a : Byte) (cy ac : Bool) :
    daa a cy ac =
      { result := (adjustHigh a cy ac).setWidth 8
        cy := cy || (adjustLow a ac).getLsbD 8 || (adjustHigh a cy ac).getLsbD 8
        ac := addsSix a ac && decide (a.toNat % 16 + 6 > 15) } := by
  rw [adjustHigh, ← high_test_eq_addsSixty a cy ac]
  simp only [daa, adjustLow, adjust, addsSix, lowDigit_toNat, highDigit_toNat]
  rfl

theorem daa_result (a : Byte) (cy ac : Bool) : (daa a cy ac).result.toNat =
    (a.toNat + 6 * (addsSix a ac).toNat + 96 * (addsSixty a cy).toNat) % 256 := by
  rw [daa_eq]
  simp only [BitVec.toNat_setWidth, adjustHigh_toNat]
  omega

/-- One of the two steps carries, or CY was 1, exactly where 60H is added. -/
theorem daa_cy (a : Byte) (cy ac : Bool) : (daa a cy ac).cy = addsSixty a cy := by
  have ha := a.isLt
  have hsix := toNat_le_one (addsSix a ac)
  have hiff := addsSixty_iff a cy ac
  rw [daa_eq, Bool.eq_iff_iff]
  simp only [Bool.or_eq_true, getLsbD_eight, decide_eq_true_iff, adjustLow_toNat, adjustHigh_toNat]
  cases hsixty : addsSixty a cy with
  | true =>
    simp only [hsixty, true_iff] at hiff
    simp only [Bool.toNat_true, iff_true]
    rcases hiff with hcarry | hcy
    · omega
    · exact .inl (.inl hcy)
  | false =>
    simp only [hsixty, Bool.false_eq_true, false_iff, not_or] at hiff
    obtain ⟨hcarry, hcy⟩ := hiff
    simp only [Bool.toNat_false, Bool.false_eq_true, iff_false, not_or]
    exact ⟨⟨hcy, by omega⟩, by omega⟩

theorem daa_ac (a : Byte) (cy ac : Bool) :
    (daa a cy ac).ac = (addsSix a ac && decide (16 ≤ a.toNat % 16 + 6)) := by
  rw [daa_eq]
  rfl

theorem exec_daa (s : State) : exec .daa s = .next (s.setAluA (daa s.regs.a s.flags.cy s.flags.ac)) := rfl

/-- Settles O20: `DAA` writes back `daa`, whose two steps come to the one line. -/
theorem daaAddsSixAndSixty : Obligations.DaaAddsSixAndSixty := by
  intro s
  refine ⟨⟨_, exec_daa s, ?sum, ?carry, ?aux, ?zsp, keepsBut_setAluA s _⟩, ?row⟩
  case sum =>
    rw [setAluA_regs]
    exact daa_result _ _ _
  case carry =>
    rw [setAluA_flags, aluFlags_cy]
    exact daa_cy _ _ _
  case aux =>
    rw [setAluA_flags, aluFlags_ac]
    exact daa_ac _ _ _
  case zsp =>
    rw [setAluA_regs, setAluA_flags]
    exact aluFlags_zsp _
  case row => exact rowOf_of_table rfl (fun _ _ => rfl) (fun _ => rfl) (fun _ => rfl)

/-! ## Decimal addition -/

/-- A packed number is the number with 6 more for each ten. -/
theorem bcd_toNat {n : Nat} (hn : n < 100) : (bcd n).toNat = n + 6 * (n / 10) := by
  rw [bcd, BitVec.toNat_ofNat]
  omega

/-- Where the number reaches 100, 60H takes the hundred out of its packed form, modulo 256. -/
theorem packed_mod_hundred {k : Nat} (hk : k < 200) :
    (k + 6 * (k / 10) + 96 * (decide (100 ≤ k)).toNat) % 256 = k % 100 + 6 * (k % 100 / 10) := by
  by_cases h : 100 ≤ k
  · simp only [h, decide_true, Bool.toNat_true]
    omega
  · simp only [h, decide_false, Bool.toNat_false]
    omega

section
variable {m n : Nat} (hm : m < 100) (hn : n < 100) (c : Bool)
include hm hn

/-- A binary sum of packed numbers, with 6 more where the low decimal digits carry, has 6 more for each ten of the sum. -/
theorem bcd_add_bcd_toNat :
    (bcd m).toNat + (bcd n).toNat + c.toNat + 6 * (decide (10 ≤ m % 10 + n % 10 + c.toNat)).toNat =
      m + n + c.toNat + 6 * ((m + n + c.toNat) / 10) := by
  have hc := toNat_le_one c
  rw [bcd_toNat hm, bcd_toNat hn]
  by_cases hlow : 10 ≤ m % 10 + n % 10 + c.toNat
  · simp only [hlow, decide_true, Bool.toNat_true]
    omega
  · simp only [hlow, decide_false, Bool.toNat_false]
    omega

/-- After the addition of two packed numbers 06H is due exactly where the low decimal digits carry. -/
theorem addsSix_add8_bcd : addsSix (add8 (bcd m) (bcd n) c).result (add8 (bcd m) (bcd n) c).ac =
    decide (10 ≤ m % 10 + n % 10 + c.toNat) := by
  have hc := toNat_le_one c
  rw [Bool.eq_iff_iff]
  simp only [addsSix, add8_result, add8_ac, bcd_toNat hm, bcd_toNat hn, Bool.or_eq_true, decide_eq_true_iff]
  omega

/-- And 60H exactly where the numbers carry. -/
theorem addsSixty_add8_bcd : addsSixty (add8 (bcd m) (bcd n) c).result (add8 (bcd m) (bcd n) c).cy =
    decide (100 ≤ m + n + c.toNat) := by
  rw [Bool.eq_iff_iff, addsSixty_iff _ _ (add8 (bcd m) (bcd n) c).ac, addsSix_add8_bcd hm hn]
  simp only [add8_result, add8_cy, decide_eq_true_iff, carry_or_le_iff, bcd_add_bcd_toNat hm hn]
  omega

/-- `daa` after `add8` of two packed numbers is the packed sum. -/
theorem daa_add8_bcd_result :
    (daa (add8 (bcd m) (bcd n) c).result (add8 (bcd m) (bcd n) c).cy (add8 (bcd m) (bcd n) c).ac).result =
      bcd ((m + n + c.toNat) % 100) := by
  have hsum : m + n + c.toNat < 200 := by
    have hc := toNat_le_one c
    omega
  apply BitVec.eq_of_toNat_eq
  rw [daa_result, addsSix_add8_bcd hm hn, addsSixty_add8_bcd hm hn, add8_result, bcd_toNat (Nat.mod_lt _ (by decide)),
    ← packed_mod_hundred hsum, ← bcd_add_bcd_toNat hm hn, Nat.add_assoc, Nat.mod_add_mod, ← Nat.add_assoc]

end

/-- Settles O21: A and CY after both instructions are those of `daa` on what `add8` left. -/
theorem decimalAddition : Obligations.DecimalAddition := by
  intro s r m n hm hn ha hr
  refine ⟨s.setAluA (add8 (bcd m) (bcd n) s.flags.cy), ?adc, _, exec_daa _, ?sum, ?hundreds⟩
  case adc =>
    rw [← ha, ← hr]
    rfl
  case sum =>
    simp only [setAluA_regs, setAluA_flags, aluFlags_cy, aluFlags_ac]
    exact daa_add8_bcd_result hm hn s.flags.cy
  case hundreds =>
    simp only [setAluA_regs, setAluA_flags, aluFlags_cy, aluFlags_ac, daa_cy]
    exact addsSixty_add8_bcd hm hn s.flags.cy

end Sys2Proof.Machine
end

section
/-! SUPPORT. The logical group (42_logical.md R150 to R170): the bits of each result and the flags that go with it, and for
each shape of instruction (a bitwise operation on A and an operand, a comparison, a rotate) what its instructions do. -/

namespace Sys2Proof.Machine

/-! ## Frames -/

section
variable (s : State)

theorem keepsBut_setCy (c : Bool) : KeepsBut [.flags] [] s (s.setCy c) := keepsBut_setFlags s { s.flags with cy := c }

theorem keepsBut_cmpA (b : Byte) : KeepsBut [.flags] [] s (s.cmpA b) := keepsBut_setFlags s _

theorem keepsBut_rotA (v : Byte) (c : Bool) : KeepsBut [.flags] [.a] s (s.rotA v c) :=
  (keepsBut_setReg s .a v).append (keepsBut_setCy _ c)

end

/-! ## A and an operand, bit by bit -/

/-- The write-back of a logical result is that of an 8-bit operation without a carry (R151). -/
theorem setLogicA_eq_setAluA (s : State) (v : Byte) (ac : Bool) :
    s.setLogicA v ac = s.setAluA { result := v, cy := false, ac := ac } := rfl

/-- What R152 to R154 say of the result and the flags of `a & b` on the part `v`. -/
def AndOf (v : Variant) (a b result : Byte) (f : Flags) : Prop :=
  (∀ k, result.getLsbD k = (a.getLsbD k && b.getLsbD k)) ∧ ZspOf result f ∧ f.cy = false ∧
    (v = .v8085A → f.ac = true) ∧ (v = .v8080A → f.ac = (a.getLsbD 3 || b.getLsbD 3))

/-- What R155 to R160 say of the result and the flags of the operation whose bits are those of `g`. -/
def BitwiseOf (g : Bool → Bool → Bool) (a b result : Byte) (f : Flags) : Prop :=
  (∀ k, k < 8 → result.getLsbD k = g (a.getLsbD k) (b.getLsbD k)) ∧ ZspOf result f ∧ f.cy = false ∧ f.ac = false

theorem andAc_of_8085 {v : Variant} (hv : v = .v8085A) (a b : Byte) : andAc v a b = true := by
  subst hv
  rfl

theorem andAc_of_8080 {v : Variant} (hv : v = .v8080A) (a b : Byte) :
    andAc v a b = (a.getLsbD 3 || b.getLsbD 3) := by
  subst hv
  rfl

theorem andOf_logicFlags (v : Variant) (a b : Byte) : AndOf v a b (a &&& b) (logicFlags (a &&& b) (andAc v a b)) :=
  ⟨fun _ => BitVec.getLsbD_and, logicFlags_zsp _ _, logicFlags_cy _ _, fun hv => andAc_of_8085 hv a b,
    fun hv => andAc_of_8080 hv a b⟩

theorem xorOf_logicFlags (a b : Byte) : BitwiseOf xor a b (a ^^^ b) (logicFlags (a ^^^ b) false) :=
  ⟨fun _ _ => BitVec.getLsbD_xor, logicFlags_zsp _ _, logicFlags_cy _ _, logicFlags_ac _ _⟩

theorem orOf_logicFlags (a b : Byte) : BitwiseOf or a b (a ||| b) (logicFlags (a ||| b) false) :=
  ⟨fun _ _ => BitVec.getLsbD_or, logicFlags_zsp _ _, logicFlags_cy _ _, logicFlags_ac _ _⟩

/-- The memory operand is combined with the A from before the access, on the same part. -/
theorem exec_anaM (s : State) : exec .anaM s = .next ((s.memRead s.hl).2.setLogicA (s.regs.a &&& s.byteAt s.hl)
    (andAc s.platform.variant s.regs.a (s.byteAt s.hl))) := by
  rw [← memRead_regs s s.hl, ← memRead_platform s s.hl]
  rfl

theorem exec_xraM (s : State) :
    exec .xraM s = .next ((s.memRead s.hl).2.setLogicA (s.regs.a ^^^ s.byteAt s.hl) false) := by
  rw [← memRead_regs s s.hl]
  rfl

theorem exec_oraM (s : State) :
    exec .oraM s = .next ((s.memRead s.hl).2.setLogicA (s.regs.a ||| s.byteAt s.hl) false) := by
  rw [← memRead_regs s s.hl]
  rfl

section
variable {i : Instr} {s : State} {v : Byte} {ac : Bool} {P : Byte → Flags → Prop}

/-- An instruction that writes a logical result and its flags, of which `P` holds. -/
theorem completes_of_setLogicA (h : exec i s = .next (s.setLogicA v ac)) (hv : P v (logicFlags v ac)) :
    Completes i s (fun t => P t.regs.a t.flags ∧ KeepsBut [.flags] [.a] s t) :=
  completes_of_setAluA (setLogicA_eq_setAluA s v ac ▸ h) hv

/-- The same after a read of memory. -/
theorem completes_of_memRead_setLogicA {a : Word} (h : exec i s = .next ((s.memRead a).2.setLogicA v ac))
    (hv : P v (logicFlags v ac)) :
    Completes i s (fun t => P t.regs.a t.flags ∧ KeepsBut [.flags, .env] [.a] s t ∧ t.env = (s.memRead a).2.env) :=
  completes_of_memRead_setAluA (setLogicA_eq_setAluA _ v ac ▸ h) hv

end

/-- Settles O22: three instructions that write back `A & b`, which differ in the operand. -/
theorem andByPart : Obligations.AndByPart := by
  intro s r data anded
  have hand (b : Byte) := andOf_logicFlags s.platform.variant s.regs.a b
  refine ⟨⟨completes_of_setLogicA rfl (hand (s.reg r)), ?anaR⟩,
    ⟨completes_of_memRead_setLogicA (exec_anaM s) (hand (s.byteAt s.hl)), ?anaM⟩,
    completes_of_setLogicA rfl (hand data), ?ani⟩
  case anaR | anaM | ani => exact rowOf_of_table rfl (fun _ _ => rfl) (fun _ => rfl) (fun _ => rfl)

/-- Settles O23: six instructions that write back `A ^ b` or `A | b`, which differ in the operand. -/
theorem xorAndOrClearCarries : Obligations.XorAndOrClearCarries := by
  intro s r data gives
  have hxor := xorOf_logicFlags s.regs.a
  have hor := orOf_logicFlags s.regs.a
  refine ⟨⟨completes_of_setLogicA rfl (hxor (s.reg r)), ?xraR⟩,
    ⟨completes_of_memRead_setLogicA (exec_xraM s) (hxor (s.byteAt s.hl)), ?xraM⟩,
    ⟨completes_of_setLogicA rfl (hxor data), ?xri⟩,
    ⟨completes_of_setLogicA rfl (hor (s.reg r)), ?oraR⟩,
    ⟨completes_of_memRead_setLogicA (exec_oraM s) (hor (s.byteAt s.hl)), ?oraM⟩,
    completes_of_setLogicA rfl (hor data), ?ori⟩
  case xraR | xraM | xri | oraR | oraM | ori =>
    exact rowOf_of_table rfl (fun _ _ => rfl) (fun _ => rfl) (fun _ => rfl)

/-! ## The comparisons -/

/-- What R161 to R163 say of the flags of `a - b`. -/
def ComparisonOf (a b : Byte) (f : Flags) : Prop :=
  (f.z = true ↔ a = b) ∧ (f.cy = true ↔ a.toNat < b.toNat) ∧ ∃ d : Byte, DifferenceOf a b false d f

/-- The difference is 0 modulo 256 exactly where the bytes are equal. -/
theorem sub8_result_eq_zero_iff (a b : Byte) : (sub8 a b false).result = 0#8 ↔ a = b := by
  have ha := a.isLt
  have hb := b.isLt
  rw [← BitVec.toNat_inj, ← BitVec.toNat_inj, sub8_result, BitVec.toNat_ofNat, Bool.toNat_false]
  omega

theorem comparisonOf_sub8 (a b : Byte) : ComparisonOf a b (sub8 a b false).flags := by
  have hdiff := sub8_spec a b false
  have ⟨_, hcy, hz, _⟩ := hdiff
  exact ⟨hz.trans (sub8_result_eq_zero_iff a b), hcy, _, hdiff⟩

section
variable {i : Instr} {s : State} {b : Byte}

/-- An instruction that compares A with `b`. -/
theorem completes_of_cmpA (h : exec i s = .next (s.cmpA b)) :
    Completes i s (fun t => ComparisonOf s.regs.a b t.flags ∧ KeepsBut [.flags] [] s t) :=
  ⟨_, h, comparisonOf_sub8 s.regs.a b, keepsBut_cmpA s b⟩

/-- The same after a read of memory, which leaves A alone. -/
theorem completes_of_memRead_cmpA {a : Word} (h : exec i s = .next ((s.memRead a).2.cmpA b)) :
    Completes i s (fun t =>
      ComparisonOf s.regs.a b t.flags ∧ KeepsBut [.flags, .env] [] s t ∧ t.env = (s.memRead a).2.env) := by
  refine ⟨_, h, ?flags, ((keepsBut_memRead s a).append (keepsBut_cmpA _ b)).mono (by simp) (by simp), cmpA_env _ b⟩
  case flags =>
    rw [cmpA_flags, memRead_regs]
    exact comparisonOf_sub8 s.regs.a b

end

/-- Settles O24: three comparisons, which differ in the operand. -/
theorem comparesAreUnsigned : Obligations.ComparesAreUnsigned := by
  intro s r data compared
  refine ⟨⟨completes_of_cmpA rfl, ?cmpR⟩, ⟨completes_of_memRead_cmpA rfl, ?cmpM⟩, completes_of_cmpA rfl, ?cpi⟩
  case cmpR | cmpM | cpi => exact rowOf_of_table rfl (fun _ _ => rfl) (fun _ => rfl) (fun _ => rfl)

/-! ## The rotates -/

/-- The bits of a byte moved up one place, with `b` at the low end. -/
theorem moveUp_getLsbD (a : Byte) (b : BitVec 1) (k : Nat) :
    (a.extractLsb' 0 7 ++ b : Byte).getLsbD k =
      if k < 1 then b.getLsbD k else (decide (k - 1 < 7) && a.getLsbD (k - 1)) := by
  rw [BitVec.getLsbD_append, BitVec.getLsbD_extractLsb', Nat.zero_add]

/-- The bits of a byte moved down one place, with `b` at the high end. -/
theorem moveDown_getLsbD (a : Byte) (b : BitVec 1) (k : Nat) :
    (b ++ a.extractLsb' 1 7 : Byte).getLsbD k = if k < 7 then a.getLsbD (k + 1) else b.getLsbD (k - 7) := by
  rw [BitVec.getLsbD_append, BitVec.getLsbD_extractLsb', Nat.add_comm 1 k]
  split
  case isTrue hk => simp [hk]
  case isFalse => rfl

section
variable {i : Instr} {s : State} {b : BitVec 1} {c : Bool}

/-- A rotate to the left that takes the bit `c` in at the low end. -/
theorem completes_of_rotateLeft (hb : b.getLsbD 0 = c)
    (h : exec i s = .next (s.rotA (s.regs.a.extractLsb' 0 7 ++ b) (s.regs.a.getLsbD 7))) :
    Completes i s (fun t => (∀ k, k < 7 → t.regs.a.getLsbD (k + 1) = s.regs.a.getLsbD k) ∧ t.regs.a.getLsbD 0 = c ∧
      t.flags = { s.flags with cy := s.regs.a.getLsbD 7 } ∧ KeepsBut [.flags] [.a] s t) := by
  refine ⟨_, h, fun k hk => ?moved, ?taken, rotA_flags s _ _, keepsBut_rotA s _ _⟩
  case moved =>
    rw [rotA_regs, moveUp_getLsbD]
    simp [hk]
  case taken =>
    rw [rotA_regs, moveUp_getLsbD]
    exact hb

/-- A rotate to the right that takes the bit `c` in at the high end. -/
theorem completes_of_rotateRight (hb : b.getLsbD 0 = c)
    (h : exec i s = .next (s.rotA (b ++ s.regs.a.extractLsb' 1 7) (s.regs.a.getLsbD 0))) :
    Completes i s (fun t => (∀ k, k < 7 → t.regs.a.getLsbD k = s.regs.a.getLsbD (k + 1)) ∧ t.regs.a.getLsbD 7 = c ∧
      t.flags = { s.flags with cy := s.regs.a.getLsbD 0 } ∧ KeepsBut [.flags] [.a] s t) := by
  refine ⟨_, h, fun k hk => ?moved, ?taken, rotA_flags s _ _, keepsBut_rotA s _ _⟩
  case moved =>
    rw [rotA_regs, moveDown_getLsbD]
    exact if_pos hk
  case taken =>
    rw [rotA_regs, moveDown_getLsbD]
    exact hb

end

/-- Bit `k` of a byte, taken out by itself. -/
theorem extractBit_getLsbD (a : Byte) (k : Nat) : (a.extractLsb' k 1).getLsbD 0 = a.getLsbD k := by simp

theorem ofBool_getLsbD_zero (c : Bool) : (BitVec.ofBool c).getLsbD 0 = c := by simp

/-- Settles O25: two rotates in each direction, which take in the bit rotated out or the old CY. -/
theorem rotatesMoveEveryBit : Obligations.RotatesMoveEveryBit := by
  intro s
  refine ⟨⟨completes_of_rotateLeft (extractBit_getLsbD s.regs.a 7) rfl, ?rlc⟩,
    ⟨completes_of_rotateRight (extractBit_getLsbD s.regs.a 0) rfl, ?rrc⟩,
    ⟨completes_of_rotateLeft (ofBool_getLsbD_zero s.flags.cy) rfl, ?ral⟩,
    completes_of_rotateRight (ofBool_getLsbD_zero s.flags.cy) rfl, ?rar⟩
  case rlc | rrc | ral | rar => exact rowOf_of_table rfl (fun _ _ => rfl) (fun _ => rfl) (fun _ => rfl)

/-! ## `CMA`, `CMC`, `STC` -/

/-- Settles O26: `CMA` writes A alone, `CMC` and `STC` write CY alone. -/
theorem complementAndCarry : Obligations.ComplementAndCarry := by
  intro s
  refine ⟨⟨⟨_, rfl, fun k hk => ?inverted, keepsBut_setReg s .a _⟩, ?cma⟩,
    ⟨⟨_, rfl, setCy_flags s _, keepsBut_setCy s _⟩, ?cmc⟩, ⟨_, rfl, setCy_flags s true, keepsBut_setCy s true⟩, ?stc⟩
  case inverted =>
    rw [setReg_a_regs, BitVec.getLsbD_not]
    simp [hk]
  case cma | cmc | stc => exact rowOf_of_table rfl (fun _ _ => rfl) (fun _ => rfl) (fun _ => rfl)

end Sys2Proof.Machine
end

section
/-! SUPPORT. The branch group (43_branch.md R180 to R189): the frame of each transfer of control, and the conditional
instructions as three families over the eight conditions. -/

namespace Sys2Proof.Machine

/-! ## Frames -/

section
variable (s : State)

theorem keepsBut_setPc (v : Word) : KeepsBut [.pc] [] s (s.setPc v) :=
  ⟨fun r _ => setPc_reg s v r, fun _ => rfl, fun hn => absurd List.mem_cons_self hn, fun _ => rfl, fun _ => rfl,
    fun _ _ _ => rfl, fun _ => rfl, rfl, rfl⟩

theorem keepsBut_setSp (v : Word) : KeepsBut [.sp] [] s (s.setSp v) :=
  ⟨fun r _ => setSp_reg s v r, fun hn => absurd List.mem_cons_self hn, fun _ => rfl, fun _ => rfl, fun _ => rfl,
    fun _ _ _ => rfl, fun _ => rfl, rfl, rfl⟩

/-- A push changes SP, and what its two one-byte writes change. -/
theorem keepsBut_push16 (v : Word) : KeepsBut [.sp, .mem, .env] [] s (s.push16 v) :=
  ((keepsBut_memWrite s _ _).append ((keepsBut_memWrite _ _ _).append (keepsBut_setSp _ _))).mono (by simp) (by simp)

/-- A pop changes SP, and what its two-byte read changes. -/
theorem keepsBut_pop16 : KeepsBut [.sp, .env] [] s s.pop16.2 :=
  ((keepsBut_memRead2 s _).append (keepsBut_setSp _ _)).mono (by simp) (by simp)

theorem keepsBut_callTo (target : Word) : KeepsBut [.pc, .sp, .mem, .env] [] s (s.callTo target) :=
  ((keepsBut_push16 s _).append (keepsBut_setPc _ target)).mono (by simp) (by simp)

theorem keepsBut_returnFrom : KeepsBut [.pc, .sp, .env] [] s s.returnFrom :=
  ((keepsBut_pop16 s).append (keepsBut_setPc _ _)).mono (by simp) (by simp)

end

/-! ## `JMP` and `PCHL` -/

/-- Settles O27: both write PC alone, from the instruction and from H :: L. -/
theorem unconditionalJumps : Obligations.UnconditionalJumps := by
  intro s addr
  refine ⟨⟨⟨_, rfl, setPc_pc s addr, keepsBut_setPc s addr⟩, ?jmp⟩,
    ⟨_, rfl, highByte_wordOf s.regs.h s.regs.l, lowByte_wordOf s.regs.h s.regs.l, keepsBut_setPc s s.hl⟩, ?pchl⟩
  case jmp | pchl => exact rowOf_of_table rfl (fun _ _ => rfl) (fun _ => rfl) (fun _ => rfl)

/-! ## Calls and returns -/

/-- What R184 says of a call of `target`: the return address stored below SP, and control at `target`. -/
def CalledFrom (s : State) (target : Word) (t : State) : Prop :=
  t.pc = target ∧ t.sp = s.sp - 2 ∧ StoresBytes [(s.sp - 1, highByte s.pc), (s.sp - 2, lowByte s.pc)] s t ∧
    KeepsBut [.pc, .sp, .mem, .env] [] s t ∧
    t.env = ((s.memWrite (s.sp - 1) (highByte s.pc)).memWrite (s.sp - 2) (lowByte s.pc)).env

/-- What R186 says of a return: PC from the two bytes at SP. -/
def ReturnedFrom (s t : State) : Prop :=
  lowByte t.pc = s.byteAt s.sp ∧ highByte t.pc = (s.memRead s.sp).2.byteAt (s.sp + 1) ∧ t.sp = s.sp + 2 ∧
    KeepsBut [.pc, .sp, .env] [] s t ∧ t.env = ((s.memRead s.sp).2.memRead (s.sp + 1)).2.env

theorem calledFrom_callTo (s : State) (target : Word) : CalledFrom s target (s.callTo target) :=
  ⟨callTo_pc s target, callTo_sp s target, callTo_stores s target, keepsBut_callTo s target,
    (callTo_env s target).trans (push16_env s s.pc)⟩

theorem returnedFrom_returnFrom (s : State) : ReturnedFrom s s.returnFrom :=
  ⟨pop16_low s, pop16_high s, returnFrom_sp s, keepsBut_returnFrom s, (returnFrom_env s).trans (pop16_env s)⟩

/-- The target of `RST n` as a number (30_encoding.md R76): eight times NNN does not wrap. -/
theorem restartTarget_eq (n : BitVec 3) : restartTarget n = BitVec.ofNat 16 (8 * n.toNat) := by
  have := n.isLt
  apply BitVec.eq_of_toNat_eq
  simp only [restartTarget, BitVec.toNat_mul, BitVec.toNat_setWidth, BitVec.toNat_ofNat]
  omega

theorem exec_rst (n : BitVec 3) (s : State) : exec (.rst n) s = .next (s.callTo (BitVec.ofNat 16 (8 * n.toNat))) := by
  rw [← restartTarget_eq]
  rfl

/-- Settles O29: both are a call, and differ in the target. -/
theorem callAndRstPushTheReturnAddress : Obligations.CallAndRstPushTheReturnAddress := by
  intro s addr n called
  refine ⟨⟨⟨_, rfl, calledFrom_callTo s addr⟩, ?call⟩, ⟨_, exec_rst n s, calledFrom_callTo s _⟩, ?rst⟩
  case call | rst => exact rowOf_of_table rfl (fun _ _ => rfl) (fun _ => rfl) (fun _ => rfl)

/-- Settles O31: `RET` is the return itself. -/
theorem retPopsTheProgramCounter : Obligations.RetPopsTheProgramCounter :=
  fun s => ⟨⟨_, rfl, returnedFrom_returnFrom s⟩, rowOf_of_table rfl (fun _ _ => rfl) (fun _ => rfl) (fun _ => rfl)⟩

/-! ## `RET` after `CALL` -/

/-- A write to RAM shows the environment nothing (20_memory.md R54). -/
theorem memWrite_env_of_ram {s : State} {a : Word} (v : Byte) (h : kindAt s.platform a = .ram) :
    (s.memWrite a v).env = s.env := by
  rw [memWrite_of_ram s a v h]

section
variable {s : State} (h1 : kindAt s.platform (s.sp - 1) = .ram) (h2 : kindAt s.platform (s.sp - 2) = .ram)
include h1 h2

/-- A call whose stack bytes are RAM shows the environment nothing. -/
theorem callTo_env_of_ram (target : Word) : (s.callTo target).env = s.env := by
  rw [callTo_env, push16_env, memWrite_env_of_ram _ (by rwa [memWrite_platform]), memWrite_env_of_ram _ h1]

/-- The return after such a call finds the stored PC and restores SP. -/
theorem returnFrom_callTo (target : Word) :
    (s.callTo target).returnFrom = ((s.callTo target).setSp s.sp).setPc s.pc :=
  returnFrom_of_stores h1 h2 (callTo_sp s target) (callTo_platform s target) (callTo_stores s target)

/-- So of the whole state only the two stack bytes may differ. -/
theorem keepsBut_callTo_returnFrom (target : Word) : KeepsBut [.mem] [] s (s.callTo target).returnFrom := by
  rw [returnFrom_callTo h1 h2]
  exact ⟨fun r _ => callTo_reg s target r, fun _ => rfl, fun _ => rfl, fun _ => callTo_flags s target,
    fun _ => callTo_ctl s target, fun hn => absurd List.mem_cons_self hn, fun _ => callTo_env_of_ram h1 h2 target,
    callTo_platform s target, callTo_tStates s target⟩

end

/-- Settles O33: the return pops what the call has stored. -/
theorem returnUndoesCall : Obligations.ReturnUndoesCall := by
  intro s addr h1 h2
  obtain ⟨_, hmem⟩ := callTo_stores s addr
  refine ⟨_, rfl, callTo_pc s addr, _, rfl, ?pc, ?mem, keepsBut_callTo_returnFrom h1 h2 addr⟩
  case pc => rw [returnFrom_callTo h1 h2, setPc_pc]
  case mem =>
    intro a ha
    rw [returnFrom_mem]
    exact hmem a ha

/-! ## The conditional instructions, by condition (30_encoding.md R75, 43_branch.md R180) -/

/-- The code CCC of a condition. -/
def condCode : Cond → BitVec 3
  | .nz => 0b000#3
  | .z => 0b001#3
  | .nc => 0b010#3
  | .c => 0b011#3
  | .po => 0b100#3
  | .pe => 0b101#3
  | .p => 0b110#3
  | .m => 0b111#3

/-- Byte 1 of a conditional instruction: CCC in bits 5 to 3, the family in bits 2 to 0. -/
def condOpcode (k : Cond) (family : BitVec 3) : Byte := 0b11#2 ++ condCode k ++ family

/-- The conditional jump of a condition, R183. -/
def jumpOn (addr : Word) : Cond → Instr
  | .nz => .jnz addr
  | .z => .jz addr
  | .nc => .jnc addr
  | .c => .jc addr
  | .po => .jpo addr
  | .pe => .jpe addr
  | .p => .jp addr
  | .m => .jm addr

/-- The conditional call of a condition, R185. -/
def callOn (addr : Word) : Cond → Instr
  | .nz => .cnz addr
  | .z => .cz addr
  | .nc => .cnc addr
  | .c => .cc addr
  | .po => .cpo addr
  | .pe => .cpe addr
  | .p => .cp addr
  | .m => .cm addr

/-- The conditional return of a condition, R187. -/
def returnOn : Cond → Instr
  | .nz => .rnz
  | .z => .rz
  | .nc => .rnc
  | .c => .rc
  | .po => .rpo
  | .pe => .rpe
  | .p => .rp
  | .m => .rm

theorem exec_jumpOn (addr : Word) (k : Cond) (s : State) :
    exec (jumpOn addr k) s = .next (s.onCond k (fun t => t.setPc addr)) := by
  cases k <;> rfl

theorem exec_callOn (addr : Word) (k : Cond) (s : State) :
    exec (callOn addr k) s = .next (s.onCond k (fun t => t.callTo addr)) := by
  cases k <;> rfl

theorem exec_returnOn (k : Cond) (s : State) : exec (returnOn k) s = .next (s.onCond k State.returnFrom) := by
  cases k <;> rfl

theorem condRowOf_jumpOn (addr : Word) (k : Cond) : CondRowOf (jumpOn addr k)
    [condOpcode k 0b010#3, lowByte addr, highByte addr] (2, 7) (3, 10) (3, 10) (3, 10) := by
  cases k <;> exact ⟨rfl, ⟨rfl, rfl⟩, ⟨rfl, rfl⟩, ⟨rfl, rfl⟩, rfl, rfl⟩

theorem condRowOf_callOn (addr : Word) (k : Cond) : CondRowOf (callOn addr k)
    [condOpcode k 0b100#3, lowByte addr, highByte addr] (2, 9) (5, 18) (3, 11) (5, 17) := by
  cases k <;> exact ⟨rfl, ⟨rfl, rfl⟩, ⟨rfl, rfl⟩, ⟨rfl, rfl⟩, rfl, rfl⟩

theorem condRowOf_returnOn (k : Cond) :
    CondRowOf (returnOn k) [condOpcode k 0b000#3] (1, 6) (3, 12) (1, 5) (3, 11) := by
  cases k <;> exact ⟨rfl, ⟨rfl, rfl⟩, ⟨rfl, rfl⟩, ⟨rfl, rfl⟩, rfl, rfl⟩

/-! ## Taken and not taken (R181) -/

/-- A conditional jump is one write of PC, with the address it already holds where the condition fails. -/
theorem onCond_setPc (s : State) (k : Cond) (addr : Word) :
    s.onCond k (fun t => t.setPc addr) = s.setPc (if condHolds s.flags k then addr else s.pc) := by
  rcases onCond_cases s k (fun t => t.setPc addr) with ⟨hk, e⟩ | ⟨hk, e⟩
  · rw [e, if_pos hk]
  · rw [e, hk]
    rfl

theorem completes_jumpOn (s : State) (addr : Word) (k : Cond) : Completes (jumpOn addr k) s (fun t =>
    t.pc = (if condHolds s.flags k then addr else s.pc) ∧ KeepsBut [.pc] [] s t) := by
  refine ⟨_, exec_jumpOn addr k s, ?_⟩
  rw [onCond_setPc]
  exact ⟨setPc_pc s _, keepsBut_setPc s _⟩

/-- An instruction that does `f` where its condition holds, and nothing where it fails. -/
theorem completes_of_onCond {i : Instr} {s : State} {k : Cond} {f : State → State} {P : State → Prop}
    (h : exec i s = .next (s.onCond k f)) (hf : P (f s)) :
    Completes i s (fun t => if condHolds s.flags k then P t else t = s) := by
  refine ⟨_, h, ?_⟩
  rcases onCond_cases s k f with ⟨hk, e⟩ | ⟨hk, e⟩
  · simpa [hk, e] using hf
  · simp [hk, e]

/-- Settles O28: the family of jumps at each of its conditions. -/
theorem conditionalJumps : Obligations.ConditionalJumps := by
  intro s addr jumps
  have hjumps (k : Cond) : jumps (jumpOn addr k) (condOpcode k 0b010#3) (condHolds s.flags k) :=
    ⟨completes_jumpOn s addr k, condRowOf_jumpOn addr k⟩
  exact ⟨hjumps .nz, hjumps .z, hjumps .nc, hjumps .c, hjumps .po, hjumps .pe, hjumps .p, hjumps .m⟩

/-- Settles O30: the family of calls at each of its conditions. -/
theorem conditionalCalls : Obligations.ConditionalCalls := by
  intro s addr called calls
  have hcalls (k : Cond) : calls (callOn addr k) (condOpcode k 0b100#3) (condHolds s.flags k) :=
    ⟨completes_of_onCond (exec_callOn addr k s) (calledFrom_callTo s addr), condRowOf_callOn addr k⟩
  exact ⟨hcalls .nz, hcalls .z, hcalls .nc, hcalls .c, hcalls .po, hcalls .pe, hcalls .p, hcalls .m⟩

/-- Settles O32: the family of returns at each of its conditions. -/
theorem conditionalReturns : Obligations.ConditionalReturns := by
  intro s returned returns
  have hreturns (k : Cond) : returns (returnOn k) (condOpcode k 0b000#3) (condHolds s.flags k) :=
    ⟨completes_of_onCond (exec_returnOn k s) (returnedFrom_returnFrom s), condRowOf_returnOn k⟩
  exact ⟨hreturns .nz, hreturns .z, hreturns .nc, hreturns .c, hreturns .po, hreturns .pe, hreturns .p, hreturns .m⟩

end Sys2Proof.Machine
end

section
/-! SUPPORT. The stack, I/O and machine control group (44_stack_io_control.md R201 to R214): the frames of its operations, the
bits of the flag byte and of the `RIM` byte, and the interrupt-enable bookkeeping of a step that fetches (D9). -/

namespace Sys2Proof.Machine

/-! ## Frames -/

section
variable (s : State)

theorem keepsBut_setCtl (c : Ctl) : KeepsBut [.ctl] [] s (s.setCtl c) :=
  ⟨fun r _ => setCtl_reg s c r, fun _ => rfl, fun _ => rfl, fun _ => rfl, fun hn => absurd List.mem_cons_self hn,
    fun _ _ _ => rfl, fun _ => rfl, rfl, rfl⟩

theorem keepsBut_ioRead (port : Byte) : KeepsBut [.env] [] s (s.ioRead port).2 := by
  rw [ioRead_state]
  exact keepsBut_env s _

theorem keepsBut_rimIeBit : KeepsBut [.env] [] s s.rimIeBit.2 := by
  rw [rimIeBit_state]
  exact keepsBut_env s _

theorem keepsBut_rimSample : KeepsBut [.env] [] s s.rimSample.2 := by
  rw [rimSample_state]
  exact keepsBut_env s _

end

/-! ## `PUSH` and `POP` -/

/-- The bits of a flag byte are the flags that `POP PSW` takes from it (R202, R204). -/
theorem flagByte_bits (f : Flags) (x : BitVec 3) :
    (flagByte f x).getLsbD 7 = f.s ∧ (flagByte f x).getLsbD 6 = f.z ∧ (flagByte f x).getLsbD 4 = f.ac ∧
      (flagByte f x).getLsbD 2 = f.p ∧ (flagByte f x).getLsbD 0 = f.cy :=
  have h := flagsOfByte_flagByte f x
  ⟨congrArg Flags.s h, congrArg Flags.z h, congrArg Flags.ac h, congrArg Flags.p h, congrArg Flags.cy h⟩

section
variable (s : State) (hi lo : Byte)

theorem push16_wordOf_stores : StoresBytes [(s.sp - 1, hi), (s.sp - 2, lo)] s (s.push16 (wordOf hi lo)) := by
  simpa using push16_stores s (wordOf hi lo)

theorem push16_wordOf_env :
    (s.push16 (wordOf hi lo)).env = ((s.memWrite (s.sp - 1) hi).memWrite (s.sp - 2) lo).env := by
  simp

end

/-- The flag byte that `PUSH PSW` stores, with the three free bits it draws (log 13). -/
def State.drawnFlagByte (s : State) : Byte := flagByte s.flags (Config.flagByteX s.env.draws)

/-- `PUSH PSW` counts the draw and pushes A and the flag byte (R202). -/
theorem exec_pushPsw (s : State) :
    exec .pushPsw s = .next (s.countDraw.push16 (wordOf s.regs.a s.drawnFlagByte)) := rfl

theorem keepsBut_countDraw_push16 (s : State) (v : Word) :
    KeepsBut [.sp, .mem, .env] [] s (s.countDraw.push16 v) :=
  ((keepsBut_env s _).append (keepsBut_push16 s.countDraw v)).mono (by simp) (by simp)

/-- Settles O34: two pushes, which differ in the word. -/
theorem pushStoresTwoBytes : Obligations.PushStoresTwoBytes := by
  intro s rp
  refine ⟨⟨⟨_, rfl, push16_sp s _, push16_stores s _, keepsBut_push16 s _, push16_env s _⟩, ?push⟩,
    ⟨_, exec_pushPsw s, s.drawnFlagByte, ?psw⟩, ?pushPsw⟩
  case psw =>
    obtain ⟨hs, hz, hac, hp, hcy⟩ := flagByte_bits s.flags (Config.flagByteX s.env.draws)
    exact ⟨hs, hz, hac, hp, hcy, push16_sp s.countDraw _,
      storesBytes_congr (push16_wordOf_stores s.countDraw _ _) rfl rfl rfl, keepsBut_countDraw_push16 s _,
      push16_wordOf_env s.countDraw _ _⟩
  case push | pushPsw => exact rowOf_of_table rfl (fun _ _ => rfl) (fun _ => rfl) (fun _ => rfl)

theorem exec_pop (rp : StackPair) (s : State) :
    exec (.pop rp) s = .next (s.pop16.2.setPair (pairOfStackPair rp) s.pop16.1) := rfl

theorem exec_popPsw (s : State) :
    exec .popPsw s = .next ((s.pop16.2.setReg .a (highByte s.pop16.1)).setFlags (flagsOfByte (lowByte s.pop16.1))) := rfl

/-- SP is no pair of `PUSH` and `POP` (R203). -/
theorem pairOfStackPair_ne_sp (rp : StackPair) : pairOfStackPair rp ≠ .sp := by
  cases rp <;> simp [pairOfStackPair]

theorem keepsBut_setPair_stack (s : State) (rp : StackPair) (v : Word) :
    KeepsBut [] (regsOfPair (pairOfStackPair rp)) s (s.setPair (pairOfStackPair rp) v) := by
  simpa [pairOfStackPair_ne_sp] using keepsBut_setPair s (pairOfStackPair rp) v

/-- Settles O35: one pop each, written to a pair, or to A and the flags. -/
theorem popLoadsTwoBytes : Obligations.PopLoadsTwoBytes := by
  intro s rp lo hi
  refine ⟨⟨⟨_, exec_pop rp s, ?high, ?low, ?sp, ?frame, setPair_env _ _ _⟩, ?pop⟩,
    ⟨_, exec_popPsw s, ?a, ?cy, ?p, ?ac, ?z, ?s, rfl, ?pswFrame, rfl⟩, ?popPsw⟩
  case high => rw [pair_setPair_same, pop16_high]
  case low => rw [pair_setPair_same, pop16_low]
  case sp => rw [setPair_stack_sp, pop16_sp]
  case frame => exact (keepsBut_pop16 s).append (keepsBut_setPair_stack _ rp _)
  case a => simp [hi]
  case cy | p | ac | z | s => simp [flagsOfByte, lo]
  case pswFrame =>
    exact ((keepsBut_pop16 s).append (keepsBut_setReg_setFlags _ .a _ _)).mono (by simp) (by simp)
  case pop | popPsw => exact rowOf_of_table rfl (fun _ _ => rfl) (fun _ => rfl) (fun _ => rfl)

/-- Where the registers are those of `s`, one that is given the byte it has in `s` changes none of them. -/
theorem reg_setReg_of_eq {s t : State} {r : Reg} {v : Byte} (hv : v = s.reg r) (h : ∀ r', t.reg r' = s.reg r')
    (r' : Reg) : (t.setReg r v).reg r' = s.reg r' := by
  rw [reg_setReg]
  split
  · next he => rw [he, hv]
  · exact h r'

/-- Where the stack lies in RAM, `POP PSW` takes A, the flags and SP back from what was pushed, whatever the free bits. -/
theorem exec_popPsw_push16 {s : State} (h1 : kindAt s.platform (s.sp - 1) = .ram)
    (h2 : kindAt s.platform (s.sp - 2) = .ram) (a : Byte) (f : Flags) (x : BitVec 3) :
    exec .popPsw (s.push16 (wordOf a (flagByte f x))) =
      .next ((((s.push16 (wordOf a (flagByte f x))).setSp s.sp).setReg .a a).setFlags f) := by
  rw [exec_popPsw, pop16_push16 s _ h1 h2, highByte_wordOf, lowByte_wordOf, flagsOfByte_flagByte]

/-- Settles O36: `POP PSW` writes back the pushed A, flags and SP; the bytes pushed are all that memory may differ in. -/
theorem popPswUndoesPushPsw : Obligations.PopPswUndoesPushPsw := by
  intro s h1 h2
  refine ⟨_, exec_pushPsw s, _, exec_popPsw_push16 (s := s.countDraw) h1 h2 s.regs.a s.flags _, ?mem, ?frame⟩
  case mem =>
    obtain ⟨_, hmem⟩ := push16_stores s.countDraw (wordOf s.regs.a s.drawnFlagByte)
    exact hmem
  case frame =>
    have hreg (v : Word) (r : Reg) : ((s.countDraw.push16 v).setSp s.sp).reg r = s.reg r :=
      push16_reg s.countDraw v r
    exact ⟨fun r _ => reg_setReg_of_eq rfl (hreg _) r, fun _ => rfl, fun _ => by simp, fun _ => rfl, fun _ => by simp,
      fun hn => absurd List.mem_cons_self hn, fun hn => absurd (List.mem_cons_of_mem _ List.mem_cons_self) hn,
      by simp, by simp⟩

/-! ## `XTHL` and `SPHL` -/

/-- In `StoresBytes` the order of the bytes does not matter. -/
theorem StoresBytes.perm {ps qs : List (Word × Byte)} {s t : State} (h : StoresBytes ps s t) (hp : ps.Perm qs) :
    StoresBytes qs s t := by
  obtain ⟨hstored, hkept⟩ := h
  exact ⟨fun p hq => hstored p (hp.mem_iff.2 hq), fun a ha => hkept a (mt (hp.map Prod.fst).mem_iff.1 ha)⟩

theorem exec_xthl (s : State) :
    exec .xthl s = .next ((((s.memRead2 s.sp).2.memWrite (s.sp + 1) s.regs.h).memWrite s.sp s.regs.l).setPair .hl
      (s.memRead2 s.sp).1) := rfl

/-- Settles O37: `XTHL` is a two-byte read, two writes at two different addresses, and a write of the pair; `SPHL` one write
of SP. -/
theorem xthlAndSphl : Obligations.XthlAndSphl := by
  intro s
  refine ⟨⟨⟨_, exec_xthl s, ?low, ?high, ?stores, ?frame, setPair_env _ .hl _⟩, ?xthl⟩,
    ⟨_, rfl, highByte_wordOf s.regs.h s.regs.l, lowByte_wordOf s.regs.h s.regs.l, keepsBut_setSp s s.hl⟩, ?sphl⟩
  case low | high => simp [memRead2_spec]
  case stores =>
    have hstores := storesBytes_two (s.memRead2 s.sp).2 s.regs.h s.regs.l (ne_add_one s.sp).symm
    exact storesBytes_congr (hstores.perm (.swap _ _ [])) (memRead2_mem s _).symm (memRead2_platform s _).symm rfl
  case frame =>
    exact (((keepsBut_memRead2 s s.sp).append ((keepsBut_memWrite _ _ _).append (keepsBut_memWrite _ _ _))).append
      (keepsBut_setPair _ .hl _)).mono (by simp) (by simp [regsOfPair])
  case xthl | sphl => exact rowOf_of_table rfl (fun _ _ => rfl) (fun _ => rfl) (fun _ => rfl)

/-! ## `IN` and `OUT` -/

theorem ioRead_of_input {s : State} {v : Byte} {rest : List Byte} (port : Byte) (h : s.env.io = v :: rest) :
    s.ioRead port =
      (v, { s with env := { s.env with io := rest, trace := s.env.trace ++ [.ioRead port] } }) := by
  simp [State.ioRead, State.emit, h]

theorem ioRead_env_of_none {s : State} (port : Byte) (h : s.env.io = []) :
    (s.ioRead port).2.env =
      { s.env with draws := s.env.draws + 1, trace := s.env.trace ++ [.ioRead port] } := by
  simp [State.ioRead, h]

theorem exec_inPort (port : Byte) (s : State) :
    exec (.inPort port) s = .next ((s.ioRead port).2.setReg .a (s.ioRead port).1) := rfl

/-- Settles O38: `IN` is one `IoRead` and a write of A, `OUT` one event. -/
theorem inAndOutReachThePort : Obligations.InAndOutReachThePort := by
  intro s port
  refine ⟨⟨⟨_, exec_inPort port s, fun v rest hio => ?input, fun hio => ?free,
      (keepsBut_ioRead s port).append (keepsBut_setReg _ .a _)⟩, ?inPort⟩,
    ⟨_, rfl, rfl, keepsBut_env s _⟩, ?outPort⟩
  case input =>
    rw [ioRead_of_input port hio]
    exact ⟨rfl, rfl⟩
  case free => rw [setReg_env, ioRead_env_of_none port hio]
  case inPort | outPort => exact rowOf_of_table rfl (fun _ _ => rfl) (fun _ => rfl) (fun _ => rfl)

/-! ## `EI`, `DI`, `HLT`, `NOP` -/

/-- Settles O39: three writes of the control state, and nothing. -/
theorem eiDiHltNopWriteControlOnly : Obligations.EiDiHltNopWriteControlOnly := by
  intro s
  refine ⟨⟨⟨_, rfl, rfl, keepsBut_setCtl s _⟩, ?ei⟩, ⟨⟨_, rfl, rfl, keepsBut_setCtl s _⟩, ?di⟩,
    ⟨⟨_, rfl, rfl, keepsBut_setCtl s _⟩, ?hlt⟩, rfl, ?nop⟩
  case ei | di | hlt | nop => exact rowOf_of_table rfl (fun _ _ => rfl) (fun _ => rfl) (fun _ => rfl)

/-! ## `RIM` -/

/-- The eight places of the `RIM` byte (R213; log 6). -/
theorem rimByte_bits (q : RimSample) (c : Ctl) (ieBit : Bool) :
    (rimByte q c ieBit).getLsbD 0 = c.m55 ∧ (rimByte q c ieBit).getLsbD 1 = c.m65 ∧
      (rimByte q c ieBit).getLsbD 2 = c.m75 ∧ (rimByte q c ieBit).getLsbD 3 = ieBit ∧
      (rimByte q c ieBit).getLsbD 4 = q.rst55 ∧ (rimByte q c ieBit).getLsbD 5 = q.rst65 ∧
      (rimByte q c ieBit).getLsbD 6 = c.r75 ∧ (rimByte q c ieBit).getLsbD 7 = q.sid := by
  simp only [rimByte, BitVec.getLsbD_append]
  simp

/-- At the first `RIM` after a TRAP bit 3 is the IE from before it (R34, R213). -/
theorem rimIeBit_of_trapRim {s : State} (ht : s.ctl.trapRim = true) : s.rimIeBit = (s.ctl.ieTrap, s) := by
  simp [State.rimIeBit, ht]

/-- With no TRAP outstanding and no `EI` directly before, bit 3 is IE. -/
theorem rimIeBit_of_current {s : State} (ht : s.ctl.trapRim = false) (he : s.ctl.eiPend = false) :
    s.rimIeBit = (s.ctl.ie, s) := by
  simp [State.rimIeBit, ht, he]

/-- The choice of bit 3 counts a draw at most. -/
theorem rimIeBit_env (s : State) : s.rimIeBit.2.env = { s.env with draws := s.rimIeBit.2.env.draws } := by
  rcases rimIeBit_cases s with ⟨-, h⟩ | ⟨-, -, h⟩ | ⟨-, -, h⟩ <;> simp [h]

/-- The sampling uses up a sample at most, and counts a draw at most. -/
theorem rimSample_env (s : State) :
    s.rimSample.2.env = { s.env with rim := s.env.rim.tail, draws := s.rimSample.2.env.draws } := by
  rcases rimSample_cases s with ⟨q, rest, hrim, h⟩ | ⟨hrim, h⟩ <;> simp [h, hrim]

theorem rimSample_rim (s : State) : s.rimSample.2.env.rim = s.env.rim.tail := by rw [rimSample_env]

theorem rimSample_of_input {s : State} {q : RimSample} {rest : List RimSample} (h : s.env.rim = q :: rest) :
    s.rimSample.1 = q := by
  simp [State.rimSample, h]

/-- Without a sample both lines are low (log 10). -/
theorem rimSample_of_none {s : State} (h : s.env.rim = []) :
    s.rimSample.1.rst55 = false ∧ s.rimSample.1.rst65 = false := by
  simp [State.rimSample, h]

theorem rowOf85_of_table {i : Instr} {bytes : List Byte} {cycles t85 : Nat} (hbytes : encode i = bytes)
    (hcycles : ∀ taken, (machineCyclesOf .v8085A taken i).length = cycles)
    (h85 : ∀ taken, tStatesOf .v8085A taken i = some t85)
    (h80 : ∀ taken, tStatesOf .v8080A taken i = none) : RowOf85 i bytes cycles t85 :=
  ⟨hbytes, fun taken => ⟨hcycles taken, h85 taken, h80 taken⟩⟩

/-- Settles O40: the bits by `rimByte_bits`, what was sampled by the cases of the sample list, the environment by
`rimIeBit_env` and `rimSample_env`. -/
theorem rimReadsMasksAndLines : Obligations.RimReadsMasksAndLines := by
  refine ⟨fun s hv => ?completes, rowOf85_of_table rfl (fun _ => rfl) (fun _ => rfl) (fun _ => rfl)⟩
  have hrim : s.rimIeBit.2.env.rim = s.env.rim := by rw [rimIeBit_env]
  obtain ⟨h0, h1, h2, h3, h4, h5, h6, h7⟩ := rimByte_bits s.rimIeBit.2.rimSample.1 s.ctl s.rimIeBit.1
  refine ⟨_, exec_rim_of_8085 hv, h0, h1, h2, fun ht => h3.trans ?afterTrap, fun ht he => h3.trans ?current, h6,
    fun q rest hq => ?input, fun hq => ?free, ?trace, ?boundary, ?io, ?bus, rfl, ?frame⟩
  case afterTrap => rw [rimIeBit_of_trapRim ht]
  case current => rw [rimIeBit_of_current ht he]
  case input =>
    obtain rfl := rimSample_of_input (hrim.trans hq)
    exact ⟨h4, h5, h7, by simp [rimSample_rim, hrim, hq]⟩
  case free =>
    obtain ⟨h55, h65⟩ := rimSample_of_none (hrim.trans hq)
    exact ⟨h4.trans h55, h5.trans h65, by simp [rimSample_rim, hrim, hq]⟩
  case trace | boundary | io | bus => rw [setCtl_env, setReg_env, rimSample_env, rimIeBit_env]
  case frame =>
    exact ((((keepsBut_rimIeBit s).append (keepsBut_rimSample _)).append (keepsBut_setReg _ .a _)).append
      (keepsBut_setCtl _ _)).mono (by simp) (by simp)

/-! ## `SIM` -/

/-- Bit 4 of A alone resets the RST 7.5 latch. -/
theorem simCtl_r75 (v : Byte) (c : Ctl) : (simCtl v c).r75 = (c.r75 && !v.getLsbD 4) := by
  unfold simCtl
  cases v.getLsbD 4 <;> simp

/-- Settles O41: `SIM` is one write of the control state, whose groups `simCtl` writes one by one. -/
theorem simWritesMasksLatchAndSod : Obligations.SimWritesMasksLatchAndSod := by
  refine ⟨fun s hv => ⟨_, exec_sim_of_8085 hv, fun h3 => ?enabled, fun h3 => ?disabled, simCtl_r75 _ _,
    rfl, rfl, keepsBut_setCtl s _⟩, rowOf85_of_table rfl (fun _ => rfl) (fun _ => rfl) (fun _ => rfl)⟩
  case enabled => exact ⟨if_pos h3, if_pos h3, if_pos h3⟩
  case disabled =>
    have hn := ne_true_of_eq_false h3
    exact ⟨if_neg hn, if_neg hn, if_neg hn⟩

/-! ## The interrupt-enable bookkeeping (00_scope.md R12 item 6) -/

theorem isEi_iff (i : Instr) : isEi i = true ↔ i = .ei := by cases i <;> simp [isEi]

theorem isDi_iff (i : Instr) : isDi i = true ↔ i = .di := by cases i <;> simp [isDi]

theorem isDi_of_ne {i : Instr} (h : i ≠ .di) : isDi i = false := by rwa [← Bool.not_eq_true, isDi_iff]

/-- No instruction sets IE itself, and `DI` alone clears it (R209, R210). -/
theorem exec_ie {i : Instr} {s t : State} (h : exec i s = .next t) : t.ctl.ie = (s.ctl.ie && !isDi i) := by
  cases i
  case rim => simp [eq_of_exec_rim h, isDi]
  case sim => simp [eq_of_exec_sim h, isDi, simCtl]
  case ei | di | hlt =>
    obtain rfl := Host.Outcome.next.inj h
    simp [isDi]
  all_goals simp [exec_ctl rfl h, isDi]

/-! ### The query changes the RST 7.5 latch alone -/

@[simp] theorem afterBoundary_ie (s : State) : s.afterBoundary.ctl.ie = s.ctl.ie := by
  unfold State.afterBoundary
  split <;> rfl

@[simp] theorem afterBoundary_intInhibit (s : State) : s.afterBoundary.ctl.intInhibit = s.ctl.intInhibit := by
  unfold State.afterBoundary
  split <;> rfl

@[simp] theorem afterBoundary_halted (s : State) : s.afterBoundary.ctl.halted = s.ctl.halted := by
  unfold State.afterBoundary
  split <;> rfl

/-! ### The step -/

/-- Item 6 of R12 after a step that runs `i` (D9). -/
def BookkeptAfter (i : Instr) (s t : State) : Prop :=
  t.ctl.eiPend = isEi i ∧ t.ctl.intInhibit = (isEi i || isDi i) ∧
    t.ctl.ie = ((s.ctl.ie || s.ctl.eiPend) && !isDi i)

theorem bookkeptAfter_step {s t : State} (hf : Fetches s) (h : step s = .next t) :
    BookkeptAfter s.afterBoundary.fetch.1 s t := by
  rw [step_of_fetches hf] at h
  obtain ⟨u, hu, rfl⟩ := runNext_cases h
  have hie : u.ctl.ie = (s.ctl.ie && !isDi s.afterBoundary.fetch.1) := by simpa using exec_ie hu
  exact ⟨rfl, rfl, by simp [hie, Bool.and_or_distrib_right]⟩

/-- A boundary that finds IntInhibit at 1 accepts no source, TRAP included (R237, D9). -/
theorem boundaryPasses_of_intInhibit {s : State} (h : s.ctl.intInhibit = true) (hr : s.boundaryInput ≠ .reset) :
    BoundaryPasses s := by
  cases hb : s.boundaryInput with
  | reset => exact absurd hb hr
  | query q => exact ⟨q, hb, by simp [acceptedSource, h]⟩

/-- Settles O56: what `DI` leaves of IE and EIpend, and the shut boundary, are the bookkeeping's. -/
theorem diActsAtOnce : Obligations.DiActsAtOnce := by
  intro s t hf hdi h
  obtain ⟨hpend, hinhibit, hie⟩ := hdi ▸ bookkeptAfter_step hf h
  exact ⟨by simpa [isDi] using hie, hpend, boundaryPasses_of_intInhibit hinhibit⟩

/-- A step that runs `EI` answers a next state, in which the processor is not halted. -/
theorem step_of_ei {s : State} (hf : Fetches s) (hei : s.afterBoundary.fetch.1 = .ei) :
    ∃ t, step s = .next t ∧ t.ctl.halted = false := by
  have hrun := runNext_of_exec (s := s.afterBoundary) (by rw [hei]; rfl)
  have hstep := (step_of_fetches hf).trans hrun
  obtain ⟨_, hhalted⟩ := hf
  exact ⟨_, hstep, by simp [hhalted]⟩

/-- Settles O55: every clause reads off `BookkeptAfter`, of the step that runs `EI` and of the one after it. -/
theorem eiActsOneInstructionLate : Obligations.EiActsOneInstructionLate := by
  constructor
  · intro s t hf h i
    obtain ⟨hpend, hinhibit, hie⟩ : BookkeptAfter i s t := bookkeptAfter_step hf h
    refine ⟨by rw [hpend, isEi_iff], by rw [hinhibit, Bool.or_eq_true, isEi_iff, isDi_iff], fun hdi => ?di,
      fun hdi hp => ?late, fun hdi hp => ?kept⟩
    case di => rw [hie, (isDi_iff i).2 hdi, Bool.not_true, Bool.and_false]
    case late | kept => simp [hie, isDi_of_ne hdi, hp]
  · intro s hf hei
    obtain ⟨t, h, hhalted⟩ := step_of_ei hf hei
    obtain ⟨hpend, hinhibit, hie⟩ := hei ▸ bookkeptAfter_step hf h
    refine ⟨t, h, fun hp => by simpa [hp, isDi] using hie, fun hr => ?next⟩
    have hft : Fetches t := ⟨boundaryPasses_of_intInhibit hinhibit hr, hhalted⟩
    refine ⟨hft, fun u hu => ?_⟩
    obtain ⟨-, -, hie'⟩ := bookkeptAfter_step hft hu
    exact ⟨fun hdi => by simp [hie', hpend, isEi, isDi_of_ne hdi], fun hdi => by simp [hie', hdi, isDi]⟩

end Sys2Proof.Machine
end

section
/-! SUPPORT. Every instruction of the part completes (60_exceptions.md R230), and every step keeps the invariant: what an
instruction does to RAM and to `halted`, then each of the four things a step can do. -/

namespace Sys2Proof.Machine

/-! ## Completion (R230) -/

/-- Only `RIM` and `SIM` look at the part; the other meanings answer a next state outright. -/
theorem exec_of_wellFormed {i : Instr} {s : State} (h : i.wellFormed s.platform.variant = true) :
    ∃ t, exec i s = .next t := by
  cases i
  case rim => exact ⟨_, exec_rim_of_8085 (of_decide_eq_true h)⟩
  case sim => exact ⟨_, exec_sim_of_8085 (of_decide_eq_true h)⟩
  case undef08 | undef10 | undef18 | undef28 | undef38 | undefCB | undefD9 | undefDD | undefED | undefFD => cases h
  all_goals exact ⟨_, rfl⟩

/-- A row that is no instruction of either part is refused by its byte (R80). -/
theorem exec_of_undefined {i : Instr} (h : i.wellFormed .v8085A = false) (s : State) :
    ∃ op, exec i s = .refused (.undefinedOpcode op) ∧ encode i = [op] := by
  rcases (wellFormed_8085_eq_false_iff i).1 h with rfl | rfl | rfl | rfl | rfl | rfl | rfl | rfl | rfl | rfl
  all_goals exact ⟨_, rfl, rfl⟩

/-- What is no instruction of the part is refused by its byte: on the 8080A `RIM` and `SIM` too (R81). -/
theorem exec_of_not_wellFormed {i : Instr} {s : State} (h : i.wellFormed s.platform.variant = false) :
    ∃ op, exec i s = .refused (.undefinedOpcode op) ∧ encode i = [op] := by
  cases hv : s.platform.variant with
  | v8085A => exact exec_of_undefined (hv ▸ h) s
  | v8080A =>
    rcases (wellFormed_8080_eq_false_iff i).1 (hv ▸ h) with hu | rfl | rfl
    · exact exec_of_undefined hu s
    · exact ⟨_, exec_rim_of_8080 hv, rfl⟩
    · exact ⟨_, exec_sim_of_8080 hv, rfl⟩

/-- Settles O7, by the two cases of `wellFormed`. -/
theorem everyInstructionCompletes : Obligations.EveryInstructionCompletes :=
  fun _ _ => ⟨exec_of_wellFormed, exec_of_not_wellFormed⟩

/-! ## RAM and `halted` after an instruction -/

theorem onCond_wf {s : State} {k : Cond} {f : State → State} (h : s.mem.wf) (hf : (f s).mem.wf) :
    (s.onCond k f).mem.wf := by
  rcases onCond_cases s k f with ⟨-, e⟩ | ⟨-, e⟩
  · rwa [e]
  · rwa [e]

/-- An instruction keeps RAM canonical: it stores through `memWrite`, or it stores nothing. -/
theorem exec_wf {i : Instr} {s t : State} (hs : s.mem.wf) (h : exec i s = .next t) : t.mem.wf := by
  cases i
  case undef08 | undef10 | undef18 | undef28 | undef38 | undefCB | undefD9 | undefDD | undefED | undefFD =>
    exact nomatch h
  case rim => simpa [eq_of_exec_rim h] using hs
  case sim => simpa [eq_of_exec_sim h] using hs
  all_goals obtain rfl := Host.Outcome.next.inj h
  case movMR | mviM | sta | stax => exact memWrite_wf hs _ _
  case shld => exact memWrite2_wf hs _ _
  case inrM | dcrM => exact memWrite_wf (s := (s.memRead s.hl).2) (by simpa using hs) _ _
  case call | rst => exact callTo_wf hs _
  case cnz | cz | cnc | cc | cpo | cpe | cp | cm => exact onCond_wf hs (callTo_wf hs _)
  case push => exact push16_wf hs _
  case pushPsw => exact push16_wf (s := s.countDraw) hs _
  case xthl => exact memWrite_wf (memWrite_wf (s := (s.memRead2 s.sp).2) (by simpa using hs) _ _) _ _
  case jnz | jz | jnc | jc | jpo | jpe | jp | jm => exact onCond_wf hs hs
  case rnz | rz | rnc | rc | rpo | rpe | rp | rm => exact onCond_wf hs (by simpa using hs)
  all_goals simpa using hs

/-- Only `HLT` stops the processor, and no instruction starts it again (R243). -/
theorem exec_halted {i : Instr} {s t : State} (h : exec i s = .next t) :
    t.ctl.halted = (s.ctl.halted || decide (i = .hlt)) := by
  cases i
  case rim => simp [eq_of_exec_rim h]
  case sim => simp [eq_of_exec_sim h, simCtl]
  case ei | di | hlt =>
    obtain rfl := Host.Outcome.next.inj h
    simp
  all_goals simp [exec_ctl rfl h]

/-! ## Each part of a step -/

/-- The boundary writes the RST 7.5 latch and the environment's side alone. -/
theorem afterBoundary_inv {s : State} (h : s.Inv) : s.afterBoundary.Inv := by
  simpa [State.Inv] using h

/-- An entry leaves IntInhibit and EIpend 0 and the processor running. -/
theorem enterAt_inv {s : State} (h : s.mem.wf) (src : IntSource) (w : Word) : (s.enterAt src w).Inv :=
  ⟨enterAt_wf h src w, by simp, by simp⟩

theorem resetEvent_inv (s : State) : s.resetEvent.Inv := by
  obtain ⟨-, hpend, -, hhalted⟩ := resetEvent_ctl s
  exact ⟨resetEvent_wf s, by simp [hhalted], by simp [hpend]⟩

/-- The instruction at PC: only `HLT` can leave the processor halted, and it is neither `EI` nor `DI`, which alone set
IntInhibit; EIpend is set by `EI` alone. -/
theorem runNext_inv {s t : State} (hs : s.mem.wf) (hrun : s.ctl.halted = false) (h : s.runNext = .next t) : t.Inv := by
  obtain ⟨u, hu, rfl⟩ := runNext_cases h
  have hwf : u.mem.wf := exec_wf (by simpa using hs) hu
  refine ⟨hwf, fun hhalted => ?halted, fun hpend => ?pend⟩
  case halted =>
    have hhlt : s.fetch.1 = .hlt := by simpa [exec_halted hu, hrun] using hhalted
    simp [hhlt, isEi, isDi]
  case pend =>
    have hei : isEi s.fetch.1 = true := hpend
    simp [hei]

/-- Every step keeps the invariant. -/
theorem step_inv {s t : State} (hs : s.Inv) (h : step s = .next t) : t.Inv := by
  have hb := afterBoundary_inv hs
  have hwf : s.afterBoundary.mem.wf := hb.1
  rcases step_cases h with ⟨-, rfl⟩ | ⟨q, -, ⟨src, -, w, rfl⟩ | ⟨-, -, rfl⟩ | ⟨-, hhalted, hrun⟩⟩
  · exact resetEvent_inv _
  · exact enterAt_inv (by rwa [acknowledge_mem]) src w
  · exact hb
  · exact runNext_inv hwf (by rwa [afterBoundary_halted]) hrun

/-- Settles O46: each of the four things a step can do keeps the invariant. -/
theorem everyStepKeepsInv : Obligations.EveryStepKeepsInv :=
  fun _ _ hs h => step_inv hs h

end Sys2Proof.Machine
end

section
/-! SUPPORT. Which source a boundary accepts (60_exceptions.md R232 to R238), what an entry does (R240 to R245), the return
from it (R246), a halted processor (R243) and `RIM` after a TRAP (R248). -/

namespace Sys2Proof.Machine

/-! ## The gates (R232, R249) -/

section
variable (s : State) (q : IntQuery)

/-- TRAP has no gate but its request (G5). -/
theorem gateOpen_trap_iff : gateOpen s q .trap = true ↔ q.trap = true := .rfl

theorem gateOpen_rst75_iff : gateOpen s q .rst75 = true ↔
    s.platform.variant = .v8085A ∧ s.ctl.r75 = true ∧ s.ctl.ie = true ∧ s.ctl.m75 = false := by
  simp [gateOpen, and_assoc]

theorem gateOpen_rst65_iff :
    gateOpen s q .rst65 = true ↔ q.rst65 = true ∧ s.ctl.ie = true ∧ s.ctl.m65 = false := by
  simp [gateOpen, and_assoc]

theorem gateOpen_rst55_iff :
    gateOpen s q .rst55 = true ↔ q.rst55 = true ∧ s.ctl.ie = true ∧ s.ctl.m55 = false := by
  simp [gateOpen, and_assoc]

theorem gateOpen_intr_iff : gateOpen s q .intr = true ↔ q.intr = true ∧ s.ctl.ie = true := by
  simp [gateOpen]

end

/-- Settles O50: the accepted source's gate is open, and each gate says what it needs. -/
theorem gatesOfTheSources : Obligations.GatesOfTheSources := by
  intro s q src h
  obtain ⟨hinhibit, hgate⟩ := gateOpen_of_acceptedSource h
  refine ⟨hinhibit, ?_⟩
  cases src with
  | trap => simp [(gateOpen_trap_iff s q).1 hgate]
  | rst75 =>
    obtain ⟨hv, hr75, hie, hm75⟩ := (gateOpen_rst75_iff s q).1 hgate
    simp [hv, hr75, hie, hm75]
  | rst65 =>
    obtain ⟨hline, hie, hm65⟩ := (gateOpen_rst65_iff s q).1 hgate
    simp [hline, hie, hm65]
  | rst55 =>
    obtain ⟨hline, hie, hm55⟩ := (gateOpen_rst55_iff s q).1 hgate
    simp [hline, hie, hm55]
  | intr =>
    obtain ⟨hline, hie⟩ := (gateOpen_intr_iff s q).1 hgate
    simp [hline, hie]

/-- Settles O51: the search passes the gates that are shut and stops at the first that is open. -/
theorem priorityOrder : Obligations.PriorityOrder := by
  intro s q hinhibit
  have hfind : acceptedSource s q = [.trap, .rst75, .rst65, .rst55, .intr].find? (gateOpen s q) := by
    simp [acceptedSource, hinhibit]
  have hshut (ht : q.trap = false) : ¬gateOpen s q .trap = true := ne_true_of_eq_false ht
  simp only [hfind, ← gateOpen_rst75_iff s q, ← gateOpen_rst65_iff s q, ← gateOpen_rst55_iff s q,
    ← gateOpen_intr_iff s q]
  refine ⟨fun ht => List.find?_cons_of_pos ht, fun ht h75 => ?rst75, fun ht n75 h65 => ?rst65,
    fun ht n75 n65 h55 => ?rst55, fun ht n75 n65 n55 hi => ?intr, fun ht n75 n65 n55 ni => ?none⟩
  all_goals rw [List.find?_cons_of_neg (hshut ht)]
  case rst75 => rw [List.find?_cons_of_pos h75]
  all_goals rw [List.find?_cons_of_neg n75]
  case rst65 => rw [List.find?_cons_of_pos h65]
  all_goals rw [List.find?_cons_of_neg n65]
  case rst55 => rw [List.find?_cons_of_pos h55]
  all_goals rw [List.find?_cons_of_neg n55]
  case intr => rw [List.find?_cons_of_pos hi]
  case none => rw [List.find?_cons_of_neg ni, List.find?_nil]

/-! ## The bytes an INTR device supplies (R242, R245) -/

/-- A list of bytes is one instruction and nothing else exactly where it is its encoding. -/
theorem decode_eq_ok_iff (bs : List Byte) (i : Instr) : decode bs = .ok (i, []) ↔ bs = encode i := by
  constructor
  · intro h
    simpa using encodeOfDecode bs [] i h
  · rintro rfl
    simpa using decodeOfEncode i []

theorem acknowledgeTarget_rst (n : BitVec 3) :
    acknowledgeTarget [0b11#2 ++ n ++ 0b111#3] = some (BitVec.ofNat 16 (8 * n.toNat)) := by
  have hdecode : decode [0b11#2 ++ n ++ 0b111#3] = .ok (.rst n, []) := (decode_eq_ok_iff _ _).2 rfl
  rw [← restartTarget_eq, acknowledgeTarget, hdecode]

theorem acknowledgeTarget_call (addr : Word) :
    acknowledgeTarget [0xCD#8, lowByte addr, highByte addr] = some addr := by
  have hdecode : decode [0xCD#8, lowByte addr, highByte addr] = .ok (.call addr, []) := (decode_eq_ok_iff _ _).2 rfl
  rw [acknowledgeTarget, hdecode]

/-- Nothing but `RST n` and `CALL addr` has a target. -/
theorem acknowledgeTarget_of_other {bs : List Byte} (hrst : ∀ n : BitVec 3, bs ≠ [0b11#2 ++ n ++ 0b111#3])
    (hcall : ∀ addr : Word, bs ≠ [0xCD#8, lowByte addr, highByte addr]) : acknowledgeTarget bs = none := by
  unfold acknowledgeTarget
  split
  case h_1 n hd => exact absurd ((decode_eq_ok_iff _ _).1 hd) (hrst n)
  case h_2 addr hd => exact absurd ((decode_eq_ok_iff _ _).1 hd) (hcall addr)
  case h_3 => rfl

/-! ## Interrupt entry (R240, R242) -/

section
variable (s : State)

/-- The boundary's frame: the RST 7.5 latch, and the environment's answer. -/
theorem keepsBut_afterBoundary : KeepsBut [.ctl, .env] [] s s.afterBoundary :=
  ⟨fun r _ => afterBoundary_reg s r, fun _ => afterBoundary_sp s, fun _ => afterBoundary_pc s,
    fun _ => afterBoundary_flags s, fun hn => absurd List.mem_cons_self hn, fun _ _ _ => by rw [afterBoundary_mem],
    fun hn => absurd (List.mem_cons_of_mem _ List.mem_cons_self) hn, afterBoundary_platform s, afterBoundary_tStates s⟩

theorem acknowledge_state (src : IntSource) : s.acknowledge src = s.setCtl (s.acknowledge src).ctl := by
  cases src <;> rfl

theorem keepsBut_acknowledge (src : IntSource) : KeepsBut [.ctl] [] s (s.acknowledge src) := by
  rw [acknowledge_state]
  exact keepsBut_setCtl s _

/-- An entry is a record, a write of the control state, and a call. -/
theorem keepsBut_enterAt (src : IntSource) (w : Word) :
    KeepsBut [.pc, .sp, .mem, .ctl, .env] [] s (s.enterAt src w) :=
  ((keepsBut_env s _).append ((keepsBut_setCtl _ _).append (keepsBut_callTo _ w))).mono (by simp) (by simp)

end

/-- What R240 and R242 say of the entry of `src` at `w`, from the state `s` before the boundary that answers `q`. -/
def EnteredFrom (s : State) (q : IntQuery) (src : IntSource) (w : Word) (t : State) : Prop :=
  let stack := [(s.sp - 1, highByte s.pc), (s.sp - 2, lowByte s.pc)]
  t.pc = w ∧ t.sp = s.sp - 2 ∧ StoresBytes stack s t ∧
    t.ctl =
      { s.ctl with
        ie := false, eiPend := false, intInhibit := false, halted := false
        r75 := decide (src ≠ .rst75) && (s.ctl.r75 || q.rst75Edge)
        ieTrap := if src = .trap then s.ctl.ie else s.ctl.ieTrap
        trapRim := decide (src = .trap) || s.ctl.trapRim } ∧
    t.env =
      { s.env with
        boundary := s.env.boundary.tail
        trace := s.env.trace ++ .accepted src :: deviceEvents s.platform stack } ∧
    KeepsBut [.pc, .sp, .mem, .ctl, .env] [] s t

/-- The model's entry after the boundary is that entry. -/
theorem enteredFrom_enterAt {s : State} {q : IntQuery} {src : IntSource} (ha : Accepts s q src) (w : Word) :
    EnteredFrom s q src w ((s.afterBoundary.acknowledge src).enterAt src w) := by
  obtain ⟨hq, -⟩ := ha
  refine ⟨rfl, by simp, ?stores, ?ctl, ?env, ?frame⟩
  case stores =>
    have hstores := enterAt_stores (s.afterBoundary.acknowledge src) src w
    simp only [acknowledge_sp, acknowledge_pc, afterBoundary_sp, afterBoundary_pc] at hstores
    exact storesBytes_congr hstores (by simp) (by simp) rfl
  case ctl => simp [acknowledge_ctl, afterBoundary_ctl hq, Bool.and_comm]
  case env => simp [enterAt_env]
  case frame =>
    exact ((keepsBut_afterBoundary s).append ((keepsBut_acknowledge _ src).append (keepsBut_enterAt _ src w))).mono
      (by simp) (by simp)

/-- Whatever source is accepted, a step that answers a next state has entered it. -/
theorem enteredFrom_of_step {s t : State} {q : IntQuery} {src : IntSource} (ha : Accepts s q src)
    (h : step s = .next t) : ∃ w, EnteredFrom s q src w t := by
  rw [step_of_accepts ha] at h
  rcases enterInterrupt_cases s.afterBoundary q src with ⟨w, e⟩ | e
  · obtain rfl := Host.Outcome.next.inj (h.symm.trans e)
    exact ⟨w, enteredFrom_enterAt ha w⟩
  · simp [e] at h

theorem enterInterrupt_of_vector {s : State} {src : IntSource} {w : Word} (h : vectorOf s.platform src = some w)
    (q : IntQuery) : s.enterInterrupt q src = .next ((s.acknowledge src).enterAt src w) := by
  simp [State.enterInterrupt, h]

/-- For INTR an acknowledge changes nothing, so its entry is that of the other sources. -/
theorem enterInterrupt_of_target {q : IntQuery} {w : Word} (h : acknowledgeTarget q.intrBytes = some w) (s : State) :
    s.enterInterrupt q .intr = .next ((s.acknowledge .intr).enterAt .intr w) := by
  simp [State.enterInterrupt, vectorOf, State.acknowledge, h]

theorem enterInterrupt_of_no_target {q : IntQuery} (h : acknowledgeTarget q.intrBytes = none) (s : State) :
    s.enterInterrupt q .intr = .refused (.prohibitedAcknowledge q.intrBytes) := by
  simp [State.enterInterrupt, vectorOf, h]

/-- Settles O52: the source's address is the target, and the rest is the entry of any source. -/
theorem vectoredEntry : Obligations.VectoredEntry := by
  intro s q src target ha hvec
  have hentry := enterInterrupt_of_vector (s := s.afterBoundary) (by rwa [afterBoundary_platform]) q
  exact ⟨_, (step_of_accepts ha).trans hentry, enteredFrom_enterAt ha target⟩

/-- Settles O53: the target is that of the bytes supplied, the entry the same as of any source; without a target the boundary
refuses. -/
theorem intrEntry : Obligations.IntrEntry := by
  intro s q ha
  have hstep := step_of_accepts ha
  refine ⟨fun target hbytes => ?entry, fun hrst hcall => ?refused⟩
  case entry =>
    have htarget : acknowledgeTarget q.intrBytes = some target := by
      rcases hbytes with ⟨n, hb, rfl⟩ | hb
      · rw [hb, acknowledgeTarget_rst]
      · rw [hb, acknowledgeTarget_call]
    exact ⟨_, hstep.trans (enterInterrupt_of_target htarget _), enteredFrom_enterAt ha target⟩
  case refused => exact hstep.trans (enterInterrupt_of_no_target (acknowledgeTarget_of_other hrst hcall) _)

/-! ## The return (R246) -/

/-- Settles O54: `RET` pops the PC that the entry stored, and the entry has changed nothing else that the program sees. -/
theorem returnResumesTheInterruptedProgram : Obligations.ReturnResumesTheInterruptedProgram := by
  intro s t q src h1 h2 ha h
  obtain ⟨w, -, hsp, hstores, -, -, hframe⟩ := enteredFrom_of_step ha h
  obtain ⟨hreg, -, -, hflags, -, -, -, hplatform, hobserver⟩ := hframe
  have hret := returnFrom_of_stores h1 h2 hsp hplatform hstores
  obtain ⟨-, hkept⟩ := hstores
  exact ⟨_, congrArg Host.Outcome.next hret, rfl, hkept, hreg, fun _ => rfl, fun _ => rfl, fun _ => hflags (by simp),
    by simp, by simp, by simp, hplatform, hobserver⟩

/-! ## A halted processor (R243, R255) -/

/-- Settles O57: the step is the boundary alone. -/
theorem haltedStaysHalted : Obligations.HaltedStaysHalted :=
  fun s hhalted hb => ⟨step_of_halted hb hhalted,
    fun _ hq => ⟨afterBoundary_ctl hq, afterBoundary_env s, keepsBut_afterBoundary s⟩⟩

/-! ## `RIM` after a TRAP (R248) -/

/-- `RIM` on the 8085A: bit 3 as `rimIeBit` chooses it, TrapRim cleared, the rest of the control state kept. -/
theorem completes_rim {s : State} (hv : s.platform.variant = .v8085A) :
    Completes .rim s (fun u => u.regs.a.getLsbD 3 = s.rimIeBit.1 ∧ u.ctl = { s.ctl with trapRim := false } ∧
      u.platform = s.platform) := by
  obtain ⟨-, -, -, h3, -⟩ := rimByte_bits s.rimIeBit.2.rimSample.1 s.ctl s.rimIeBit.1
  exact ⟨_, exec_rim_of_8085 hv, h3, rfl, by simp⟩

/-- Settles O58: the entry sets TrapRim, so the first `RIM` reads IEtrap; that `RIM` clears it, so the next reads IE. -/
theorem rimAfterTrap : Obligations.RimAfterTrap := by
  intro s t q hv ha h
  obtain ⟨w, -, -, -, hctl, -⟩ := enteredFrom_of_step ha h
  have hvt : t.platform.variant = .v8085A := by rw [step_platform h, hv]
  obtain ⟨u, hu, hbit, huctl, huplatform⟩ := completes_rim hvt
  refine ⟨u, hu, ?first, ?second⟩
  case first => rw [hbit, rimIeBit_of_trapRim (by simp [hctl]), hctl]; simp
  case second =>
    obtain ⟨x, hx, hbit', -, -⟩ := completes_rim (s := u) (by rw [huplatform, hvt])
    have hcurrent := rimIeBit_of_current (s := u) (by rw [huctl]) (by rw [huctl, hctl])
    exact ⟨x, hx, hbit'.trans (by rw [hcurrent, huctl, hctl])⟩

end Sys2Proof.Machine
end

section
/-! SUPPORT. What the reset event leaves in the interrupt and serial state of the 8085A (70_reset_and_hazards.md R270 to
R274). -/

namespace Sys2Proof.Machine

/-- On the 8085A a reset event brings the control state to what it is right after reset; only IEtrap is a free value
(R273, log 24). -/
theorem resetEvent_ctl_of_8085 {s : State} (hv : s.platform.variant = .v8085A) :
    s.resetEvent.ctl =
      { (State.powerUp s.platform).ctl with ieTrap := Config.resetBit (s.mem.epoch + 1) 5 } := by
  simp [State.resetEvent, State.powerUp, hv]

/-- The state right after reset has the masks set, the RST 7.5 latch and SOD reset (R272), and no TRAP outstanding (D18). -/
theorem powerUp_masks (p : Platform) :
    (State.powerUp p).ctl.m55 = true ∧ (State.powerUp p).ctl.m65 = true ∧ (State.powerUp p).ctl.m75 = true ∧
      (State.powerUp p).ctl.r75 = false ∧ (State.powerUp p).ctl.sod = false ∧ (State.powerUp p).ctl.trapRim = false :=
  ⟨rfl, rfl, rfl, rfl, rfl, rfl⟩

/-- A reset event of the 8085A restores the masks, latch, SOD and TrapRim of the state right after reset. -/
theorem resetEvent_masks {s : State} (hv : s.platform.variant = .v8085A) :
    s.resetEvent.ctl.m55 = true ∧ s.resetEvent.ctl.m65 = true ∧ s.resetEvent.ctl.m75 = true ∧
      s.resetEvent.ctl.r75 = false ∧ s.resetEvent.ctl.sod = false ∧ s.resetEvent.ctl.trapRim = false := by
  rw [resetEvent_ctl_of_8085 hv]
  exact powerUp_masks s.platform

/-- Settles O59: the step is the reset event, whose control state is `resetEvent_ctl` on either part and `resetEvent_masks`
on the 8085A. -/
theorem resetEvent : Obligations.ResetEvent := by
  intro s hb
  obtain ⟨hie, hpend, hinhibit, hhalted⟩ := resetEvent_ctl s.useBoundaryInput
  exact ⟨_, step_of_reset hb, resetEvent_pc _, hie, hpend, hinhibit, hhalted,
    fun hv => resetEvent_masks (s := s.useBoundaryInput) hv⟩

/-- Settles O60: the reset event leaves there what the state right after reset holds. -/
theorem resetLeavesMasksSet : Obligations.ResetLeavesMasksSet := by
  refine ⟨fun p _ => ?powerUp, fun s hv hb => ⟨_, step_of_reset hb, ?event⟩⟩
  case powerUp =>
    obtain ⟨h55, h65, h75, hr75, hsod, -⟩ := powerUp_masks p
    exact ⟨h55, h65, h75, hr75, hsod⟩
  case event =>
    obtain ⟨h55, h65, h75, hr75, hsod, -⟩ := resetEvent_masks (s := s.useBoundaryInput) hv
    exact ⟨h55, h65, h75, hr75, hsod⟩

end Sys2Proof.Machine
end
